-- ==== Sys2Proof/Word.lean ====
section
/-! DEFINITION. The words of the block: bytes on the two-wire bus, raw register values, command
and data words. Spec: 00_scope.md rule R6 (the widths the source fixes). -/

namespace Sys2Proof

/-- One byte as the bus transport moves it. -/
abbrev Byte := BitVec 8

/-- A Raw Register Value, `REG_WIDTH` = 16 bits (R6). -/
abbrev Raw := BitVec 16

/-- A command word, a codec argument, or a physical value of `PHYS_WIDTH` = 32 bits (R6, R7). -/
abbrev Word := BitVec 32

/-- A device address, `DEV_ADDR_WIDTH` = 7 bits (R6). -/
abbrev DevAddr := BitVec 7

/-- A register pointer, `REG_ADDR_WIDTH` = 8 bits (R6). -/
abbrev RegPtr := BitVec 8

/-- `bits[hi:lo]` of the notation of 00_scope.md section 5, by its low bit and its width. -/
abbrev field (w : Word) (lo width : Nat) : BitVec width := w.extractLsb' lo width

end Sys2Proof
end

