-- ==== Sys2Proof/Config.lean ====
section
/-! DEFINITION. What is fixed when the block is built (10_state.md rule R21) and the one free value
of the model. The default values and the legality test stand in Machine/Build.lean. -/

namespace Sys2Proof

/-- The closed set of register names of the chip (20_memory.md rule R33). -/
inductive RegName where
  | config
  | shunt1 | bus1 | shunt2 | bus2 | shunt3 | bus3
  | crit1 | warn1 | crit2 | warn2 | crit3 | warn3
  | shuntSum | shuntSumLimit
  | maskEnable
  | pvUpper | pvLower
  | mfrId | dieId
  deriving DecidableEq, Repr

/-- The access mode of a register, "read-only, write-only, read-write" (R33). -/
inductive Access where
  | readOnly | writeOnly | readWrite
  deriving DecidableEq, Repr

/-- One row of the register map: a register pointer and an access mode (R33). -/
structure RegEntry where
  addr   : RegPtr
  access : Access
  deriving DecidableEq, Repr

/-- `REG_ADDR`, the register map: one row for each of the twenty names (R33). -/
structure RegMap where
  config        : RegEntry
  shunt1        : RegEntry
  bus1          : RegEntry
  shunt2        : RegEntry
  bus2          : RegEntry
  shunt3        : RegEntry
  bus3          : RegEntry
  crit1         : RegEntry
  warn1         : RegEntry
  crit2         : RegEntry
  warn2         : RegEntry
  crit3         : RegEntry
  warn3         : RegEntry
  shuntSum      : RegEntry
  shuntSumLimit : RegEntry
  maskEnable    : RegEntry
  pvUpper       : RegEntry
  pvLower       : RegEntry
  mfrId         : RegEntry
  dieId         : RegEntry
  deriving DecidableEq, Repr

/-- `CFG_LAYOUT`: the position (lowest bit) of each of the seven fields of the configuration word
(42_configuration.md rules R110, R111; 92_eei_decisions.md D9). The widths are 1, 1, 1, 3, 3, 3, 3
(R54). DESIGN CHOICE (log 13): the bits of one field lie side by side. -/
structure CfgLayout where
  en1    : Nat
  en2    : Nat
  en3    : Nat
  avg    : Nat
  vbusCt : Nat
  vshCt  : Nat
  mode   : Nat
  deriving DecidableEq, Repr

/-- The build constants of rule R21. `tsWidth` and `teWidth` are `TS_WIDTH` and `TE_WIDTH`;
`baudCfg` is opaque and no rule reads it (R6). -/
structure Config where
  devAddr       : DevAddr
  baudCfg       : Nat
  regMap        : RegMap
  layout        : CfgLayout
  defaultConfig : Raw
  busLsbUv      : Nat
  shuntLsbUv    : Nat
  tsWidth       : Nat
  teWidth       : Nat
  deriving DecidableEq, Repr

/-- The places that hold "no value" or an "unspecified" value at some time: after RESET (R160) and,
for the response registers, after a response that does not fill them (R19, G9, G13). -/
inductive FreePlace where
  | step | cmdLatch | tsLatch
  | slot (i : Nat)
  | respStatus | respErr | respData | respTimestamp
  | respSlot (i : Nat)
  deriving DecidableEq, Repr

/-- The free value (log 3): what a place holds when the spec says that it holds no value or an
unspecified one. It has no body: nothing can be proved of it. The number is the count of draws,
so that each draw is a fresh one ("drawn afresh, never a fixed number", 93_implementation_defined.md G9). -/
opaque Config.freeValue (draw : Nat) (place : FreePlace) : Nat

end Sys2Proof
end

