-- ==== Sys2Proof/Syntax.lean ====
section
/-! DEFINITION. The thirteen operations of the block: nine commands of the CMD format and four
functions of the CODEC format (30_encoding.md rules R50 to R55). -/

namespace Sys2Proof

/-- The settings record of CONFIG: three channel-enable flags and four 3-bit codes that the block
never interprets (R54, R111). -/
structure Settings where
  en1    : Bool
  en2    : Bool
  en3    : Bool
  avg    : BitVec 3
  vbusCt : BitVec 3
  vshCt  : BitVec 3
  mode   : BitVec 3
  deriving DecidableEq, Repr

/-- One constructor per row of the opcode table. A channel operand is a number (R54: "an unsigned
field read as it stands"); the argument of an encode function is a signed number of microvolts
(R55). The two decode functions carry the sixteen ignored bits `codec_in[31:16]` too (R55), so
that no bit of the codec port is lost in decoding. -/
inductive Instr where
  /-- RDBUS ch (R90). -/
  | rdbus (ch : Nat)
  /-- RDSHUNT ch (R91). -/
  | rdshunt (ch : Nat)
  /-- CONFIG settings (R112). -/
  | config (settings : Settings)
  /-- DEFCFG (R113). -/
  | defcfg
  /-- RDMFR (R92). -/
  | rdmfr
  /-- RDDIE (R93). -/
  | rddie
  /-- RDCFG (R94). -/
  | rdcfg
  /-- RDMASK (R95). -/
  | rdmask
  /-- SAMPLE (R120). -/
  | sample
  /-- DECBUS raw (R72); `ignored` is `codec_in[31:16]`. -/
  | decbus (ignored raw : Raw)
  /-- DECSHUNT raw (R73); `ignored` is `codec_in[31:16]`. -/
  | decshunt (ignored raw : Raw)
  /-- ENCBUS phys (R74). -/
  | encbus (phys : Int)
  /-- ENCSHUNT phys (R75). -/
  | encshunt (phys : Int)
  deriving DecidableEq, Repr

/-- A word as it stands on one of the two instruction ports: "a decoder is told the format by the
port" (R50). The CODEC word is the 34-bit pair `codec_op`, `codec_in`. -/
inductive PortWord where
  | cmd (w : Word)
  | codec (p : BitVec 34)
  deriving DecidableEq, Repr

end Sys2Proof
end

