-- ==== Sys2Proof/WellFormed.lean ====
section
/-! DEFINITION. Which instruction terms stand for a word: the ranges of the operand numerals
(30_encoding.md rules R54, R55, R60). -/

namespace Sys2Proof

/-- A channel numeral fits the 16-bit operand: "every value from 0 to 65535 can be presented" (R54).
A channel outside 1 to 3 is well formed; it is refused when it is executed (R131). -/
def channelNumeral (ch : Nat) : Bool := decide (ch < 65536)

/-- An encode argument is a signed 32-bit number of microvolts (R55). -/
def signedMicrovolts (phys : Int) : Bool :=
  decide (-2147483648 ≤ phys) && decide (phys < 2147483648)

/-- The check on a whole instruction. -/
def Instr.wellFormed : Instr → Bool
  | .rdbus ch => channelNumeral ch
  | .rdshunt ch => channelNumeral ch
  | .config _ => true
  | .defcfg => true
  | .rdmfr => true
  | .rddie => true
  | .rdcfg => true
  | .rdmask => true
  | .sample => true
  | .decbus _ _ => true
  | .decshunt _ _ => true
  | .encbus phys => signedMicrovolts phys
  | .encshunt phys => signedMicrovolts phys

end Sys2Proof
end

