-- ==== Sys2Proof/Decode.lean ====
section
/-! DEFINITION. The decoder of the two formats, total on every word, and after it the encoder, both
from the tables of 30_encoding.md (rules R50 to R56). -/

namespace Sys2Proof

/-- Why a command word is illegal: tests (1) to (4) of rule R52, in that order. -/
inductive DecodeError where
  /-- Test (1): `w[31:24]` is none of the nine opcodes. -/
  | unknownOpcode
  /-- Test (2): `w[23:16]` is not 0. -/
  | reservedField
  /-- Test (3): a command without operand, and `w[15:0]` is not 0. -/
  | operandNotZero
  /-- Test (4): CONFIG with `w[15]` = 1 (R57). -/
  | configBit15
  deriving DecidableEq, Repr

/-- The nine commands, without their operands. -/
inductive Opcode where
  | rdbus | rdshunt | config | defcfg | rdmfr | rddie | rdcfg | rdmask | sample
  deriving DecidableEq, Repr

/-- The opcode map (R53). Every other value is reserved. -/
def opcodeOf (opcode : BitVec 8) : Option Opcode :=
  match opcode.toNat with
  | 0x01 => some .rdbus
  | 0x02 => some .rdshunt
  | 0x03 => some .config
  | 0x04 => some .defcfg
  | 0x05 => some .rdmfr
  | 0x06 => some .rddie
  | 0x07 => some .rdcfg
  | 0x08 => some .rdmask
  | 0x09 => some .sample
  | _ => none

/-- The settings fields of a CONFIG word, at the positions of the command (R54). -/
def settingsOf (w : Word) : Settings :=
  { en1 := w.getLsbD 14
    en2 := w.getLsbD 13
    en3 := w.getLsbD 12
    avg := field w 9 3
    vbusCt := field w 6 3
    vshCt := field w 3 3
    mode := field w 0 3 }

/-- A command that takes no operand: test (3) of R52. -/
def withoutOperand (w : Word) (i : Instr) : Except DecodeError Instr :=
  if field w 0 16 = 0#16 then .ok i else .error .operandNotZero

/-- The command of a word whose opcode and reserved field have passed: tests (3) and (4) of R52,
and the operand (R54). -/
def commandInstr (c : Opcode) (w : Word) : Except DecodeError Instr :=
  match c with
  | .rdbus => .ok (.rdbus (field w 0 16).toNat)
  | .rdshunt => .ok (.rdshunt (field w 0 16).toNat)
  | .config => if w.getLsbD 15 then .error .configBit15 else .ok (.config (settingsOf w))
  | .defcfg => withoutOperand w .defcfg
  | .rdmfr => withoutOperand w .rdmfr
  | .rddie => withoutOperand w .rddie
  | .rdcfg => withoutOperand w .rdcfg
  | .rdmask => withoutOperand w .rdmask
  | .sample => withoutOperand w .sample

/-- The decoder of the CMD format: tests (1) to (4) of rule R52 in their order. Test (5), the
channel, belongs to the command's meaning (R53: "the channel test ... is applied after the match"). -/
def decodeCmd (w : Word) : Except DecodeError Instr :=
  match opcodeOf (field w 24 8) with
  | none => .error .unknownOpcode
  | some c => if field w 16 8 = 0#8 then commandInstr c w else .error .reservedField

/-- The decoder of the CODEC format: `codec_op` is bits 33:32 (R55). It has no illegal word. -/
def decodeCodec (p : BitVec 34) : Instr :=
  match (p.extractLsb' 32 2).toNat with
  | 0 => .decbus (p.extractLsb' 16 16) (p.extractLsb' 0 16)
  | 1 => .decshunt (p.extractLsb' 16 16) (p.extractLsb' 0 16)
  | 2 => .encbus (p.extractLsb' 0 32).toInt
  | _ => .encshunt (p.extractLsb' 0 32).toInt

/-- The decoder, told the format by the port (R50). -/
def decode : PortWord → Except DecodeError Instr
  | .cmd w => decodeCmd w
  | .codec p => .ok (decodeCodec p)

/-! The encoder. -/

/-- A CMD word of its three fields (R51). -/
def cmdWord (opcode : BitVec 8) (operand : Raw) : Word := opcode ++ 0x00#8 ++ operand

/-- The CONFIG operand: bit 15 is 0, then the seven fields (R54). -/
def settingsOperand (s : Settings) : Raw :=
  0#1 ++ BitVec.ofBool s.en1 ++ BitVec.ofBool s.en2 ++ BitVec.ofBool s.en3 ++
    s.avg ++ s.vbusCt ++ s.vshCt ++ s.mode

/-- A CODEC word of `codec_op` and `codec_in` (R50). -/
def codecWord (op : BitVec 2) (arg : Word) : BitVec 34 := op ++ arg

/-- The word of an instruction, on the port of its format (R53, R54, R55). -/
def encode : Instr → PortWord
  | .rdbus ch => .cmd (cmdWord 0x01#8 (BitVec.ofNat 16 ch))
  | .rdshunt ch => .cmd (cmdWord 0x02#8 (BitVec.ofNat 16 ch))
  | .config s => .cmd (cmdWord 0x03#8 (settingsOperand s))
  | .defcfg => .cmd (cmdWord 0x04#8 0#16)
  | .rdmfr => .cmd (cmdWord 0x05#8 0#16)
  | .rddie => .cmd (cmdWord 0x06#8 0#16)
  | .rdcfg => .cmd (cmdWord 0x07#8 0#16)
  | .rdmask => .cmd (cmdWord 0x08#8 0#16)
  | .sample => .cmd (cmdWord 0x09#8 0#16)
  | .decbus ignored raw => .codec (codecWord 0b00#2 (ignored ++ raw))
  | .decshunt ignored raw => .codec (codecWord 0b01#2 (ignored ++ raw))
  | .encbus phys => .codec (codecWord 0b10#2 (BitVec.ofInt 32 phys))
  | .encshunt phys => .codec (codecWord 0b11#2 (BitVec.ofInt 32 phys))

/-! The opcode table. -/

/-- One row of the opcode table: a word `w` is of the row when `w & mask = pattern` (R53, R55). -/
structure TableRow where
  pattern : Nat
  mask    : Nat
  deriving DecidableEq, Repr

/-- The row of an instruction, from the tables of rules R53 and R55. -/
def tableRow : Instr → TableRow
  | .rdbus _ => ⟨0x01000000, 0xFFFF0000⟩
  | .rdshunt _ => ⟨0x02000000, 0xFFFF0000⟩
  | .config _ => ⟨0x03000000, 0xFFFF8000⟩
  | .defcfg => ⟨0x04000000, 0xFFFFFFFF⟩
  | .rdmfr => ⟨0x05000000, 0xFFFFFFFF⟩
  | .rddie => ⟨0x06000000, 0xFFFFFFFF⟩
  | .rdcfg => ⟨0x07000000, 0xFFFFFFFF⟩
  | .rdmask => ⟨0x08000000, 0xFFFFFFFF⟩
  | .sample => ⟨0x09000000, 0xFFFFFFFF⟩
  | .decbus _ _ => ⟨0x000000000, 0x300000000⟩
  | .decshunt _ _ => ⟨0x100000000, 0x300000000⟩
  | .encbus _ => ⟨0x200000000, 0x300000000⟩
  | .encshunt _ => ⟨0x300000000, 0x300000000⟩

/-- The number of a port word. -/
def PortWord.number : PortWord → Nat
  | .cmd w => w.toNat
  | .codec p => p.toNat

/-- A port word is of a row. -/
def PortWord.ofRow (p : PortWord) (r : TableRow) : Bool := decide (p.number &&& r.mask = r.pattern)

/-- The port word of an opcode-table row's number: 32 bits on the command port, 34 bits (40 when
rounded up to bytes) on the codec port (R50; log 12). -/
def portWordOfTable (nbits w : Nat) : Option PortWord :=
  if nbits ≤ 32 then
    if w < 2 ^ 32 then some (.cmd (BitVec.ofNat 32 w)) else none
  else if nbits ≤ 40 then
    if w < 2 ^ 34 then some (.codec (BitVec.ofNat 34 w)) else none
  else none

/-- What the decoder reads from a table word; none where it refuses. -/
def decodeTableWord (nbits w : Nat) : Option Instr :=
  match portWordOfTable nbits w with
  | none => none
  | some p =>
    match decode p with
    | .ok i => some i
    | .error _ => none

end Sys2Proof
end

