-- ==== Sys2Proof/Machine/Build.lean ====
section
/-! DEFINITION. The register map's look-up, the default build constants (00_scope.md rule R6) and the
test of a configuration that the rules R8, R35, R114 and R115 refuse. -/

namespace Sys2Proof

/-- The row of a register (R33). -/
def RegMap.entry (m : RegMap) : RegName → RegEntry
  | .config => m.config
  | .shunt1 => m.shunt1
  | .bus1 => m.bus1
  | .shunt2 => m.shunt2
  | .bus2 => m.bus2
  | .shunt3 => m.shunt3
  | .bus3 => m.bus3
  | .crit1 => m.crit1
  | .warn1 => m.warn1
  | .crit2 => m.crit2
  | .warn2 => m.warn2
  | .crit3 => m.crit3
  | .warn3 => m.warn3
  | .shuntSum => m.shuntSum
  | .shuntSumLimit => m.shuntSumLimit
  | .maskEnable => m.maskEnable
  | .pvUpper => m.pvUpper
  | .pvLower => m.pvLower
  | .mfrId => m.mfrId
  | .dieId => m.dieId

/-- `REG_ADDR[name]` (R33). -/
def Config.regAddr (c : Config) (r : RegName) : RegPtr := (c.regMap.entry r).addr

/-- The access mode of a register (R33). -/
def Config.access (c : Config) (r : RegName) : Access := (c.regMap.entry r).access

/-- The width of a register as transported: 16 bits, "except a composite shunt-voltage-sum register",
whose width no rule gives (R32). -/
def regWidth : RegName → Option Nat
  | .shuntSum => none
  | _ => some 16

/-- Whether a register may be read (R33). -/
def Access.readable : Access → Bool
  | .readOnly => true
  | .writeOnly => false
  | .readWrite => true

/-- Whether a register may be written (R33). -/
def Access.writable : Access → Bool
  | .readOnly => false
  | .writeOnly => true
  | .readWrite => true

/-- The default register map of rule R33. PRESUMED (log 11). -/
def RegMap.default : RegMap :=
  { config := ⟨0x00#8, .readWrite⟩
    shunt1 := ⟨0x01#8, .readOnly⟩
    bus1 := ⟨0x02#8, .readOnly⟩
    shunt2 := ⟨0x03#8, .readOnly⟩
    bus2 := ⟨0x04#8, .readOnly⟩
    shunt3 := ⟨0x05#8, .readOnly⟩
    bus3 := ⟨0x06#8, .readOnly⟩
    crit1 := ⟨0x07#8, .readWrite⟩
    warn1 := ⟨0x08#8, .readWrite⟩
    crit2 := ⟨0x09#8, .readWrite⟩
    warn2 := ⟨0x0A#8, .readWrite⟩
    crit3 := ⟨0x0B#8, .readWrite⟩
    warn3 := ⟨0x0C#8, .readWrite⟩
    shuntSum := ⟨0x0D#8, .readOnly⟩
    shuntSumLimit := ⟨0x0E#8, .readWrite⟩
    maskEnable := ⟨0x0F#8, .readWrite⟩
    pvUpper := ⟨0x10#8, .readWrite⟩
    pvLower := ⟨0x11#8, .readWrite⟩
    mfrId := ⟨0xFE#8, .readOnly⟩
    dieId := ⟨0xFF#8, .readOnly⟩ }

/-- The default configuration layout of rule R111. PRESUMED (log 11). -/
def CfgLayout.default : CfgLayout :=
  { en1 := 14, en2 := 13, en3 := 12, avg := 9, vbusCt := 6, vshCt := 3, mode := 0 }

/-- The default build constants of rule R6; `baudCfg` is opaque and its number means nothing. The
numbers of the chip are PRESUMED (log 11). -/
def Config.default : Config :=
  { devAddr := 0x40#7
    baudCfg := 0
    regMap := RegMap.default
    layout := CfgLayout.default
    defaultConfig := 0x7127#16
    busLsbUv := 1000
    shuntLsbUv := 5
    tsWidth := 64
    teWidth := 8 }

/-! The configuration word. -/

/-- A field of `width` bits moved to position `pos` of the 16-bit configuration word (R115). -/
def placeField {width : Nat} (v : BitVec width) (pos : Nat) : Raw := v.setWidth 16 <<< pos

/-- `pack(s)`: each field at the position the layout gives it, "and 0 in every bit no field covers" (R115). -/
def pack (l : CfgLayout) (s : Settings) : Raw :=
  placeField (BitVec.ofBool s.en1) l.en1 ||| placeField (BitVec.ofBool s.en2) l.en2 |||
    placeField (BitVec.ofBool s.en3) l.en3 ||| placeField s.avg l.avg |||
    placeField s.vbusCt l.vbusCt ||| placeField s.vshCt l.vshCt ||| placeField s.mode l.mode

/-- The settings a word shows under a layout, the inverse reading of `pack`. -/
def unpack (l : CfgLayout) (w : Raw) : Settings :=
  { en1 := w.getLsbD l.en1
    en2 := w.getLsbD l.en2
    en3 := w.getLsbD l.en3
    avg := w.extractLsb' l.avg 3
    vbusCt := w.extractLsb' l.vbusCt 3
    vshCt := w.extractLsb' l.vshCt 3
    mode := w.extractLsb' l.mode 3 }

/-! The test of a configuration. -/

/-- The condition of rule R8 on one scale constant. -/
def lsbInRange (lsb : Nat) : Bool := decide (1 ≤ lsb) && decide (lsb ≤ 524287)

/-- The ten registers the block uses (R35). -/
def usedRegs : List RegName :=
  [.config, .shunt1, .bus1, .shunt2, .bus2, .shunt3, .bus3, .maskEnable, .mfrId, .dieId]

/-- No two of the ten share an address (R35). -/
def Config.addressesDistinct (c : Config) : Bool := decide ((usedRegs.map c.regAddr).Nodup)

/-- Position and width of each field of a layout (R54, R111). -/
def CfgLayout.spans (l : CfgLayout) : List (Nat × Nat) :=
  [(l.en1, 1), (l.en2, 1), (l.en3, 1), (l.avg, 3), (l.vbusCt, 3), (l.vshCt, 3), (l.mode, 3)]

/-- The fields lie inside the 16-bit word and do not overlap (R115). -/
def CfgLayout.legal (l : CfgLayout) : Bool :=
  l.spans.all (fun f => decide (f.1 + f.2 ≤ 16)) &&
    decide (l.spans.Pairwise fun f g => f.1 + f.2 ≤ g.1 ∨ g.1 + g.2 ≤ f.1)

/-- `DEFAULT_CONFIG` has the three enable bits 1 and is a word `pack` can produce (R114). -/
def Config.defaultConfigLegal (c : Config) : Bool :=
  let s := unpack c.layout c.defaultConfig
  s.en1 && s.en2 && s.en3 && decide (pack c.layout s = c.defaultConfig)

/-- A configuration of this hardware: rules R8, R35, R114 and R115 refuse every other. -/
def Config.legal (c : Config) : Bool :=
  lsbInRange c.busLsbUv && lsbInRange c.shuntLsbUv && decide (c.busLsbUv ≠ c.shuntLsbUv) &&
    c.addressesDistinct && c.layout.legal && c.defaultConfigLegal

end Sys2Proof
end

