-- ==== Sys2Proof/Machine/State.lean ====
section
/-! DEFINITION. The state of the machine: the block's own state (10_state.md rules R11 to R18), its
build constants (R21), and its ports with what stands at them (R23). Plain data. -/

namespace Sys2Proof.Machine

/-- `SEQ`, the sequencer's control state (R15). -/
inductive SeqState where
  | idle | issue | wait
  deriving DecidableEq, Repr

/-- `SAMPLE_BUF`: the six slots `x[0]` to `x[5]`, each a 32-bit signed number of microvolts, under
the names of the fixed slot assignment (R12). -/
structure Voltages where
  bus1   : Word
  shunt1 : Word
  bus2   : Word
  shunt2 : Word
  bus3   : Word
  shunt3 : Word
  deriving DecidableEq, Repr

/-- The record of a Power Sample, `RESP_SAMPLE`: the timestamp and the six voltages (R19, R120). -/
structure PowerSample where
  timestamp : Nat
  volts     : Voltages
  deriving DecidableEq, Repr

/-- The data of a successful response (R19, R59): one 32-bit value, a whole sample, or nothing. -/
inductive OkData where
  | value (d : Word)
  | sample (p : PowerSample)
  | nothing
  deriving DecidableEq, Repr

/-- The three error kinds (60_exceptions.md rules R130 to R133). -/
inductive ErrorKind where
  | invalidChannel
  | busError (code : Nat)
  | illegalCommand
  deriving DecidableEq, Repr

/-- A response. "A model gives the response a sum type whose error variants carry no voltage" (R138). -/
inductive Response where
  | ok (d : OkData)
  | error (k : ErrorKind)
  deriving DecidableEq, Repr

/-- One request on the transport request port (R23, R36, R37): the constructor is `t_kind`, then `t_dev`,
`t_reg`, `t_count`, and for a WRITE `t_wbytes`, byte 0 sent first. -/
inductive Request where
  | read (dev : DevAddr) (reg : RegPtr) (count : BitVec 2)
  | write (dev : DevAddr) (reg : RegPtr) (count : BitVec 2) (byte0 byte1 : Byte)
  deriving DecidableEq, Repr

/-- One answer on the transport answer port: `t_ok` with two bytes, the first received first, or an
error code (R23, R36, R37). The bytes mean nothing in the answer to a write (log 9). -/
inductive Answer where
  | ok (byte0 byte1 : Byte)
  | err (code : Nat)
  deriving DecidableEq, Repr

/-- One register transaction of a micro-sequence: the block's `MemRead` and `MemWrite` (R36, R37). -/
inductive Transaction where
  | read (r : RegName)
  | write (r : RegName) (v : Raw)
  deriving DecidableEq, Repr

/-- A command as the host presents it: `cmd_word` and the timestamp that `ts_in` shows at its ACCEPT
event (R16, R23). -/
structure Presented where
  word : Word
  ts   : Nat
  deriving DecidableEq, Repr

/-- Whose turn it is: the sequencer moves, the host uses the codec port (R24: "at any time"), or RESET
arrives ("enabled always", R16). Log 4. -/
inductive Turn where
  | sequencer
  | codec (op : BitVec 2) (arg : Word)
  | reset
  deriving DecidableEq, Repr

/-- What is seen at the ports, the block's observable events (R3, R170). -/
inductive PortEvent where
  | accepted (word : Word) (ts : Nat)
  | requested (r : Request)
  | answered (a : Answer)
  | responded (r : Response)
  | codec (op : BitVec 2) (arg out : Word)
  | reset
  deriving DecidableEq, Repr

/-- Why the machine stops. No state of the invariant `Sys2Proof.Safety.Inv` raises one (log 8). -/
inductive Fault where
  /-- Raised by the step: the sequencer is busy and `CMD_LATCH` holds a word that is no command, which
  no ACCEPT event writes (R16). Safe: the state is unreachable and the rules give it no step. -/
  | latchNotCommand
  /-- Raised by the ISSUE and ANSWER events: `STEP` is no step of the command's micro-sequence, a value
  "never reached" (R11). Safe: the state is unreachable and the rules give it no step. -/
  | stepOutOfRange
  deriving DecidableEq, Repr

/-- What the model refuses. -/
inductive Refusal where
  /-- Raised by exec's arms of instructions without a meaning; none is left. Safe. -/
  | notModelled (mnemonic : String)
  /-- Raised by the step: the build constants break rule R8, R35, R114 or R115, and "a configuration
  that breaks either condition is refused by the model" (R8). Safe. -/
  | illegalConfiguration
  deriving DecidableEq, Repr

/-- The machine. -/
structure State where
  /-- The build constants (R21); no step changes them. Log 1. -/
  cfg        : Config
  /-- `SEQ` (R15). -/
  seq        : SeqState
  /-- `STEP`, the block's program counter, 3 bits (R11). -/
  stepCtr    : BitVec 3
  /-- `CMD_LATCH`, 32 bits (R14). -/
  cmdLatch   : Word
  /-- `TS_LATCH`, `TS_WIDTH` bits (R13; log 7). -/
  tsLatch    : Nat
  /-- `SAMPLE_BUF`, `x[0]` to `x[5]` (R12). -/
  sampleBuf  : Voltages
  /-- `RESP_VALID` (R18). -/
  respValid  : Bool
  /-- `RESP_STATUS`, 3 bits (R18, R58). -/
  respStatus : BitVec 3
  /-- `RESP_ERR`, `TE_WIDTH` bits (R18; log 7). -/
  respErr    : Nat
  /-- `RESP_DATA`, 32 bits (R18). -/
  respData   : Word
  /-- `RESP_SAMPLE`, `TS_WIDTH` + 192 bits (R18). -/
  respSample : PowerSample
  /-- The codec port: `codec_op` and `codec_in` as last driven, and `codec_out` (R23, R24; log 6). -/
  codecOp    : BitVec 2
  codecIn    : Word
  codecOut   : Word
  /-- The request on the transport request port that has no answer yet (R23, R44). -/
  pending    : Option Request
  /-- The command port: the commands the host presents, in order; `cmd_valid` = 1 while there is one
  (R16, R17; log 4). -/
  commands   : List Presented
  /-- The transport's answers, one for each coming request, in order: the oracle of rule R10 (log 4). -/
  answers    : List Answer
  /-- Whose turn it is, in order; the sequencer's when the list is empty (log 4). -/
  schedule   : List Turn
  /-- The events at the ports so far, the oldest first (R170; log 5). -/
  trace      : List PortEvent
  /-- The count of draws of free values: the model's own field (log 3). -/
  draws      : Nat
  deriving DecidableEq, Repr

/-- All six slots 0. -/
def Voltages.zero : Voltages := ⟨0#32, 0#32, 0#32, 0#32, 0#32, 0#32⟩

/-- The machine right after reset (R160): `SEQ` = IDLE and `RESP_VALID` = 0. The other registers are
"unspecified after reset"; here they hold 0, a DESIGN CHOICE (log 2). The constants are the defaults of
rule R6, nothing is presented at any port, and nothing has happened yet. -/
def State.reset : State :=
  { cfg := Config.default
    seq := .idle
    stepCtr := 0#3
    cmdLatch := 0#32
    tsLatch := 0
    sampleBuf := Voltages.zero
    respValid := false
    respStatus := 0#3
    respErr := 0
    respData := 0#32
    respSample := ⟨0, Voltages.zero⟩
    codecOp := 0#2
    codecIn := 0#32
    codecOut := 0#32
    pending := none
    commands := []
    answers := []
    schedule := []
    trace := []
    draws := 0 }

end Sys2Proof.Machine
end

