-- ==== Sys2Proof/Machine/Flags.lean ====
section
/-! DEFINITION. The block's only status or flag state, `RESP_STATUS` (10_state.md rule R18, 30_encoding.md
rule R58). There are no condition codes: the codec sets no flag (R76). -/

namespace Sys2Proof.Machine

/-- The code of an error kind (R58, R133). -/
def ErrorKind.code : ErrorKind → BitVec 3
  | .invalidChannel => 1#3
  | .busError _ => 2#3
  | .illegalCommand => 3#3

/-- `RESP_STATUS` of a response: 0 is OK (R58). -/
def Response.status : Response → BitVec 3
  | .ok _ => 0#3
  | .error k => k.code

end Sys2Proof.Machine
end

