-- ==== Sys2Proof/Machine/CodecMath.lean ====
section
/-! DEFINITION. The arithmetic of the value codec (40_codec.md rules R70 to R78), in exact integers. -/

namespace Sys2Proof.Machine

/-- `asr(i, k)`: `floor(i / 2^k)` (00_scope.md section 5). -/
def asr (i : Int) (k : Nat) : Int := i / (2 ^ k : Nat)

/-- `shl(i, k)`: `i * 2^k`. -/
def shl (i : Int) (k : Nat) : Int := i * (2 ^ k : Nat)

/-- `sat13(i)`: the clamp to the signed 13-bit range. -/
def sat13 (i : Int) : Int := max (-4096) (min 4095 i)

/-- `rnd_div(x, d)`: the integer nearest to `x / d`, a tie going away from zero:
`sgn(x) * floor((2 * abs(x) + d) / (2 * d))` (00_scope.md section 5, D5). -/
def rndDiv (x : Int) (d : Nat) : Int := x.sign * ((2 * x.natAbs + d) / (2 * d) : Nat)

/-- `count(raw) = asr(signed_16(raw), 3)` (R71). -/
def count (raw : Raw) : Int := asr raw.toInt 3

/-- A decode: the count times the scale constant (R72, R73). -/
def decodeVolts (lsb : Nat) (raw : Raw) : Int := count raw * lsb

/-- An encode: divide, round, clamp, shift left by 3, as a 16-bit pattern (R74, R75). -/
def encodeVolts (lsb : Nat) (phys : Int) : Raw := BitVec.ofInt 16 (shl (sat13 (rndDiv phys lsb)) 3)

/-- DECBUS of rule R72. -/
def decBus (c : Config) (raw : Raw) : Int := decodeVolts c.busLsbUv raw

/-- DECSHUNT of rule R73. -/
def decShunt (c : Config) (raw : Raw) : Int := decodeVolts c.shuntLsbUv raw

/-- ENCBUS of rule R74. -/
def encBus (c : Config) (phys : Int) : Raw := encodeVolts c.busLsbUv phys

/-- ENCSHUNT of rule R75. -/
def encShunt (c : Config) (phys : Int) : Raw := encodeVolts c.shuntLsbUv phys

/-- A number of microvolts as a 32-bit pattern, `unsigned_32` (R7). -/
def microvolts (i : Int) : Word := BitVec.ofInt 32 i

/-- `zext_32` of a raw value. -/
def zext32 (raw : Raw) : Word := raw.setWidth 32

end Sys2Proof.Machine
end

