-- ==== Sys2Proof/Machine/Operands.lean ====
section
/-! DEFINITION. The operand forms: the channel (20_memory.md rule R34), the byte order of a register
(R40), the widths of the timestamp and of an error code (00_scope.md rule R6), and the slots of the
sample buffer (10_state.md rule R12). The settings operand's `pack` stands in Machine/Build.lean. -/

namespace Sys2Proof.Machine

/-- "channel ∈ {1, 2, 3}" (R52 (5), R131). -/
def validChannel (ch : Nat) : Bool := decide (ch = 1 ∨ ch = 2 ∨ ch = 3)

/-- `BUS_REG(ch)`: a table look-up, "not defined outside {1, 2, 3}" (R34). -/
def busReg : Nat → Option RegName
  | 1 => some .bus1
  | 2 => some .bus2
  | 3 => some .bus3
  | _ => none

/-- `SHUNT_REG(ch)` (R34). -/
def shuntReg : Nat → Option RegName
  | 1 => some .shunt1
  | 2 => some .shunt2
  | 3 => some .shunt3
  | _ => none

/-- The raw value of the two bytes of a read, the most significant first (R40). -/
def rawOfBytes (byte0 byte1 : Byte) : Raw := byte0 ++ byte1

/-- The byte of a written value that is sent first, `v[15:8]` (R40). -/
def firstByte (v : Raw) : Byte := v.extractLsb' 8 8

/-- The byte of a written value that is sent second, `v[7:0]` (R40). -/
def secondByte (v : Raw) : Byte := v.extractLsb' 0 8

/-- A number on a port of `TS_WIDTH` bits (R13; log 7). -/
def tsPort (c : Config) (ts : Nat) : Nat := ts % 2 ^ c.tsWidth

/-- A number on a port of `TE_WIDTH` bits (R39; log 7). -/
def tePort (c : Config) (code : Nat) : Nat := code % 2 ^ c.teWidth

/-- An answer as the transport answer port carries it. -/
def answerPort (c : Config) : Answer → Answer
  | .ok byte0 byte1 => .ok byte0 byte1
  | .err code => .err (tePort c code)

/-- `x[i]` (R12); the block has no slot from 6 on. -/
def Voltages.slot (x : Voltages) : Nat → Option Word
  | 0 => some x.bus1
  | 1 => some x.shunt1
  | 2 => some x.bus2
  | 3 => some x.shunt2
  | 4 => some x.bus3
  | 5 => some x.shunt3
  | _ => none

/-- `x[i] <- v` (R12); a write from 6 on finds no slot. -/
def Voltages.setSlot (x : Voltages) (i : Nat) (v : Word) : Voltages :=
  match i with
  | 0 => { x with bus1 := v }
  | 1 => { x with shunt1 := v }
  | 2 => { x with bus2 := v }
  | 3 => { x with shunt2 := v }
  | 4 => { x with bus3 := v }
  | 5 => { x with shunt3 := v }
  | _ => x

end Sys2Proof.Machine
end

