-- ==== Sys2Proof/Machine/Ops.lean ====
section
/-! DEFINITION. The named operations every meaning is made of: the two transport primitives
(20_memory.md rules R36, R37), the events of 10_state.md rule R16, the response and the error entry
(R18, R19, 60_exceptions.md rule R137), RESET (70_reset_and_hazards.md rules R160 to R162), and the
codec port (R24). -/

namespace Sys2Proof.Machine

/-- The outcome of one instruction's event. -/
abbrev Result := Host.Outcome State Fault Refusal

/-! The transport primitives. -/

/-- `t_count`, the byte count of every request: "2 bits, always 2" (R23, R41). -/
def byteCount : BitVec 2 := 2#2

/-- The request of `MemRead(REG_ADDR[r], 2)` (R36). -/
def memRead (c : Config) (r : RegName) : Request := .read c.devAddr (c.regAddr r) byteCount

/-- The request of `MemWrite(REG_ADDR[r], 2, v)`: the most significant byte first (R37, R40). -/
def memWrite (c : Config) (r : RegName) (v : Raw) : Request :=
  .write c.devAddr (c.regAddr r) byteCount (firstByte v) (secondByte v)

/-- The request of one transaction of a micro-sequence. -/
def requestOf (c : Config) : Transaction → Request
  | .read r => memRead c r
  | .write r v => memWrite c r v

/-! Free values (log 3). -/

/-- A fresh free value of a 32-bit place. -/
def freeWord (draw : Nat) (p : FreePlace) : Word := BitVec.ofNat 32 (Config.freeValue draw p)

/-- A fresh free Power Sample. -/
def freeSample (c : Config) (draw : Nat) : PowerSample :=
  { timestamp := tsPort c (Config.freeValue draw .respTimestamp)
    volts :=
      { bus1 := freeWord draw (.respSlot 0)
        shunt1 := freeWord draw (.respSlot 1)
        bus2 := freeWord draw (.respSlot 2)
        shunt2 := freeWord draw (.respSlot 3)
        bus3 := freeWord draw (.respSlot 4)
        shunt3 := freeWord draw (.respSlot 5) } }

/-! The response. -/

/-- What `RESP_ERR` holds after a response: the transport's code after BusError, "no value otherwise" (R19). -/
def respErrOf (c : Config) (draw : Nat) : Response → Nat
  | .error (.busError code) => code
  | _ => tePort c (Config.freeValue draw .respErr)

/-- What `RESP_DATA` holds after a response: the value; 0 after CONFIG, DEFCFG and SAMPLE; no value
after an error (R19). -/
def respDataOf (draw : Nat) : Response → Word
  | .ok (.value d) => d
  | .ok (.sample _) => 0#32
  | .ok .nothing => 0#32
  | .error _ => freeWord draw .respData

/-- What `RESP_SAMPLE` holds after a response: the record after a successful SAMPLE, no value
otherwise (R19). -/
def respSampleOf (c : Config) (draw : Nat) : Response → PowerSample
  | .ok (.sample p) => p
  | _ => freeSample c draw

/-- The end of a command: the response registers are "written together, once per command" (R18), and the
sequencer is IDLE (R137, 00_scope.md section 5). -/
def deliver (r : Response) (s : State) : State :=
  { s with
    respValid := true
    respStatus := r.status
    respErr := respErrOf s.cfg s.draws r
    respData := respDataOf s.draws r
    respSample := respSampleOf s.cfg s.draws r
    seq := .idle
    trace := s.trace ++ [.responded r]
    draws := s.draws + 1 }

/-- `respond Ok(d)`. -/
def respondOk (d : OkData) (s : State) : State := deliver (.ok d) s

/-- `raise K(info)`, the one error entry (R137). There is no return from it but the next ACCEPT event
(R139): nothing is saved, "because there is nothing to resume". -/
def raise (k : ErrorKind) (s : State) : State := deliver (.error k) s

/-! The events of a command (R16). -/

/-- The beginning of an ACCEPT event, with the commands that stay on the port: the handshake takes the
word, and `RESP_VALID <- 0`. DESIGN CHOICE (log 17): `RESP_STATUS`, `RESP_ERR`, `RESP_DATA` and
`RESP_SAMPLE` keep their old contents from here to the next response; R18 and R126 promise them only until
this event. -/
def openCommand (p : Presented) (rest : List Presented) (s : State) : State :=
  { s with
    commands := rest
    respValid := false
    trace := s.trace ++ [.accepted p.word (tsPort s.cfg p.ts)] }

/-- The end of an ACCEPT event without an error: `CMD_LATCH <- w`, for SAMPLE `TS_LATCH <- ts`,
`pc <- 0`, `SEQ <- ISSUE` (R16). -/
def startCommand (p : Presented) (latchTs : Bool) (s : State) : State :=
  { s with
    cmdLatch := p.word
    tsLatch := if latchTs then tsPort s.cfg p.ts else s.tsLatch
    stepCtr := 0#3
    seq := .issue }

/-- The ACCEPT event of a word that decodes. `check` is the error of the operand test, if it fails
(R52 (5)). With no command at the port the event is not enabled and the block waits (log 4). -/
def acceptEvent (check : Option ErrorKind) (latchTs : Bool) (s : State) : Result :=
  match s.commands with
  | [] => .next s
  | p :: rest =>
    match check with
    | some k => .next (raise k (openCommand p rest s))
    | none => .next (startCommand p latchTs (openCommand p rest s))

/-- The ISSUE event: the request of step `STEP` is sent, `SEQ <- WAIT`. -/
def issueEvent (prog : List Transaction) (s : State) : Result :=
  match prog[s.stepCtr.toNat]? with
  | none => .fault .stepOutOfRange
  | some t =>
    .next { s with
      pending := some (requestOf s.cfg t)
      seq := .wait
      trace := s.trace ++ [.requested (requestOf s.cfg t)] }

/-- The transport answers the pending request. -/
def takeAnswer (a : Answer) (rest : List Answer) (s : State) : State :=
  { s with
    answers := rest
    pending := none
    trace := s.trace ++ [.answered (answerPort s.cfg a)] }

/-- The ANSWER event with `Ok`: the capture of step `STEP`, and then the response after the last step,
or else the next step. -/
def answerOk (prog : List Transaction) (capture : Raw → State → State) (finish : Raw → State → OkData)
    (raw : Raw) (s : State) : State :=
  if s.stepCtr.toNat + 1 = prog.length then
    respondOk (finish raw (capture raw s)) (capture raw s)
  else { capture raw s with stepCtr := s.stepCtr + 1#3, seq := .issue }

/-- The ANSWER event (R16). With no answer the event is not enabled and the sequencer waits (log 4). -/
def answerEvent (prog : List Transaction) (capture : Raw → State → State)
    (finish : Raw → State → OkData) (s : State) : Result :=
  match prog[s.stepCtr.toNat]? with
  | none => .fault .stepOutOfRange
  | some _ =>
    match s.answers with
    | [] => .next s
    | .err code :: rest =>
      .next (raise (.busError (tePort s.cfg code)) (takeAnswer (.err code) rest s))
    | .ok byte0 byte1 :: rest =>
      .next (answerOk prog capture finish (rawOfBytes byte0 byte1)
        (takeAnswer (.ok byte0 byte1) rest s))

/-- One event of a command: ACCEPT, ISSUE or ANSWER, as `SEQ` says (R15, R16). -/
def commandEvent (prog : List Transaction) (check : Option ErrorKind) (latchTs : Bool)
    (capture : Raw → State → State) (finish : Raw → State → OkData) (s : State) : Result :=
  match s.seq with
  | .idle => acceptEvent check latchTs s
  | .issue => issueEvent prog s
  | .wait => answerEvent prog capture finish s

/-- The capture of a command of one step: nothing is kept (R20). -/
def noCapture (_ : Raw) (s : State) : State := s

/-- The micro-sequence of one read; no step where there is no register. -/
def readProgram : Option RegName → List Transaction
  | some r => [.read r]
  | none => []

/-- The error of the channel test (R131). -/
def channelCheck (ch : Nat) : Option ErrorKind :=
  if validChannel ch then none else some .invalidChannel

/-- A read of one register whose data is a function of the raw value (R96). -/
def readEvent (reg : Option RegName) (check : Option ErrorKind) (value : Config → Raw → Word)
    (s : State) : Result :=
  commandEvent (readProgram reg) check false noCapture (fun raw t => .value (value t.cfg raw)) s

/-- A write of the configuration register, with no data in the response (R112, R113). -/
def configWriteEvent (word : Raw) (s : State) : Result :=
  commandEvent [.write .config word] none false noCapture (fun _ _ => .nothing) s

/-! The other events. -/

/-- The ACCEPT event of a word that does not decode: `raise IllegalCommand()`; the word is not stored
(R16, R130). -/
def acceptIllegal (p : Presented) (rest : List Presented) (s : State) : State :=
  raise .illegalCommand (openCommand p rest s)

/-- An outstanding request is abandoned: its answer, "when it comes, is discarded without effect" (R162;
log 10). -/
def abandonRequest (s : State) : State :=
  match s.pending with
  | none => s
  | some _ => { s with pending := none, answers := s.answers.drop 1 }

/-- RESET (R160 to R162): `SEQ <- IDLE`, `RESP_VALID <- 0`, every other register unspecified (log 3), no
request sent, the command in progress abandoned. -/
def resetEvent (s : State) : State :=
  { abandonRequest s with
    seq := .idle
    respValid := false
    stepCtr := BitVec.ofNat 3 (Config.freeValue s.draws .step)
    cmdLatch := freeWord s.draws .cmdLatch
    tsLatch := tsPort s.cfg (Config.freeValue s.draws .tsLatch)
    sampleBuf :=
      { bus1 := freeWord s.draws (.slot 0)
        shunt1 := freeWord s.draws (.slot 1)
        bus2 := freeWord s.draws (.slot 2)
        shunt2 := freeWord s.draws (.slot 3)
        bus3 := freeWord s.draws (.slot 4)
        shunt3 := freeWord s.draws (.slot 5) }
    respStatus := BitVec.ofNat 3 (Config.freeValue s.draws .respStatus)
    respErr := tePort s.cfg (Config.freeValue s.draws .respErr)
    respData := freeWord s.draws .respData
    respSample := freeSample s.cfg s.draws
    trace := s.trace ++ [.reset]
    draws := s.draws + 1 }

/-- A use of the codec port: the output follows the inputs, and no state of the block changes (R24, R76;
log 6). -/
def driveCodec (op : BitVec 2) (arg out : Word) (s : State) : State :=
  { s with
    codecOp := op
    codecIn := arg
    codecOut := out
    trace := s.trace ++ [.codec op arg out] }

/-- `cmd_ready` = (`SEQ` = IDLE) (R17, R23). -/
def cmdReady (s : State) : Bool := decide (s.seq = .idle)

/-- `cmd_valid`: the host presents a command (R23). -/
def cmdValid (s : State) : Bool := !s.commands.isEmpty

end Sys2Proof.Machine
end

