-- ==== Sys2Proof/Machine/Codec.lean ====
section
/-! DEFINITION. The four functions of the codec port (40_codec.md rules R72 to R76; 30_encoding.md rule R55). -/

namespace Sys2Proof.Machine

/-- DECBUS (R72). -/
def execDecbus (ignored raw : Raw) (s : State) : Result :=
  .next (driveCodec 0b00#2 (ignored ++ raw) (microvolts (decBus s.cfg raw)) s)

/-- DECSHUNT (R73). -/
def execDecshunt (ignored raw : Raw) (s : State) : Result :=
  .next (driveCodec 0b01#2 (ignored ++ raw) (microvolts (decShunt s.cfg raw)) s)

/-- ENCBUS (R74). -/
def execEncbus (phys : Int) (s : State) : Result :=
  .next (driveCodec 0b10#2 (BitVec.ofInt 32 phys) (zext32 (encBus s.cfg phys)) s)

/-- ENCSHUNT (R75). -/
def execEncshunt (phys : Int) (s : State) : Result :=
  .next (driveCodec 0b11#2 (BitVec.ofInt 32 phys) (zext32 (encShunt s.cfg phys)) s)

/-- `codec_out` as the function of the port's inputs and the two LSB constants that it is (R24, R55). -/
def codecPort (c : Config) (op : BitVec 2) (arg : Word) : Word :=
  match op.toNat with
  | 0 => microvolts (decBus c (field arg 0 16))
  | 1 => microvolts (decShunt c (field arg 0 16))
  | 2 => zext32 (encBus c arg.toInt)
  | _ => zext32 (encShunt c arg.toInt)

end Sys2Proof.Machine
end

