-- ==== Sys2Proof/Machine/Configuration.lean ====
section
/-! DEFINITION. The configuration commands (42_configuration.md rules R112 to R115). -/

namespace Sys2Proof.Machine

/-- CONFIG (R112): the packed word is written whole. -/
def execConfig (settings : Settings) (s : State) : Result :=
  configWriteEvent (pack s.cfg.layout settings) s

/-- DEFCFG (R113). -/
def execDefcfg (s : State) : Result := configWriteEvent s.cfg.defaultConfig s

end Sys2Proof.Machine
end

