-- ==== Sys2Proof/Machine/Reads.lean ====
section
/-! DEFINITION. The single-register read commands (41_register_reads.md rules R90 to R96). -/

namespace Sys2Proof.Machine

/-- RDBUS (R90). -/
def execRdbus (ch : Nat) (s : State) : Result :=
  readEvent (busReg ch) (channelCheck ch) (fun c raw => microvolts (decBus c raw)) s

/-- RDSHUNT (R91). -/
def execRdshunt (ch : Nat) (s : State) : Result :=
  readEvent (shuntReg ch) (channelCheck ch) (fun c raw => microvolts (decShunt c raw)) s

/-- RDMFR (R92): the raw bits, compared with nothing. -/
def execRdmfr (s : State) : Result := readEvent (some .mfrId) none (fun _ raw => zext32 raw) s

/-- RDDIE (R93). -/
def execRddie (s : State) : Result := readEvent (some .dieId) none (fun _ raw => zext32 raw) s

/-- RDCFG (R94). -/
def execRdcfg (s : State) : Result := readEvent (some .config) none (fun _ raw => zext32 raw) s

/-- RDMASK (R95). -/
def execRdmask (s : State) : Result := readEvent (some .maskEnable) none (fun _ raw => zext32 raw) s

end Sys2Proof.Machine
end

