-- ==== Sys2Proof/Machine/Sample.lean ====
section
/-! DEFINITION. The multi-register command (43_sample.md rules R120 to R126). -/

namespace Sys2Proof.Machine

/-- `SEQ_REG`: the six reads, in the order of `STEP` (R121). -/
def sampleProgram : List Transaction :=
  [.read .bus1, .read .shunt1, .read .bus2, .read .shunt2, .read .bus3, .read .shunt3]

/-- The decode of step `k`: DECBUS at an even step, DECSHUNT at an odd one (R120). -/
def sampleDecode (c : Config) (k : Nat) (raw : Raw) : Word :=
  if k % 2 = 0 then microvolts (decBus c raw) else microvolts (decShunt c raw)

/-- `x[k] <- ...`, `k` being `STEP` (R120). -/
def sampleCapture (raw : Raw) (s : State) : State :=
  { s with sampleBuf :=
      s.sampleBuf.setSlot s.stepCtr.toNat (sampleDecode s.cfg s.stepCtr.toNat raw) }

/-- SAMPLE (R120). -/
def execSample (s : State) : Result :=
  commandEvent sampleProgram none true sampleCapture (fun _ t => .sample ⟨t.tsLatch, t.sampleBuf⟩) s

end Sys2Proof.Machine
end

