-- ==== Sys2Proof/Machine/Dispatch.lean ====
section
/-! DEFINITION. One arm per row of the opcode table. -/

namespace Sys2Proof.Machine

def exec (i : Instr) (s : State) : Host.Outcome State Fault Refusal :=
  match i with
  | .rdbus ch => Sys2Proof.Machine.execRdbus ch s
  | .rdshunt ch => Sys2Proof.Machine.execRdshunt ch s
  | .config settings => Sys2Proof.Machine.execConfig settings s
  | .defcfg => Sys2Proof.Machine.execDefcfg s
  | .rdmfr => Sys2Proof.Machine.execRdmfr s
  | .rddie => Sys2Proof.Machine.execRddie s
  | .rdcfg => Sys2Proof.Machine.execRdcfg s
  | .rdmask => Sys2Proof.Machine.execRdmask s
  | .sample => Sys2Proof.Machine.execSample s
  | .decbus ignored raw => Sys2Proof.Machine.execDecbus ignored raw s
  | .decshunt ignored raw => Sys2Proof.Machine.execDecshunt ignored raw s
  | .encbus phys => Sys2Proof.Machine.execEncbus phys s
  | .encshunt phys => Sys2Proof.Machine.execEncshunt phys s

end Sys2Proof.Machine
end

