-- ==== Sys2Proof/Machine/Fetch.lean ====
section
/-! DEFINITION. Which event is next, and the instruction it belongs to (10_state.md rule R16). The block
fetches from no memory (20_memory.md rule R47): an instruction comes from the command port while the
sequencer is IDLE, from `CMD_LATCH` while it is busy (R14), and from the codec port (R24). -/

namespace Sys2Proof.Machine

/-- What is to be done: run the meaning of an instruction in a state, or an outcome that needs none. -/
inductive Fetched where
  | run (i : Instr) (s : State)
  | settled (o : Result)

/-- The sequencer's turn. IDLE: the command at the port, or a wait for one. ISSUE and WAIT: the command
in the latch. -/
def fetchSequencer (s : State) : Fetched :=
  match s.seq with
  | .idle =>
    match s.commands with
    | [] => .settled (.next s)
    | p :: rest =>
      match decodeCmd p.word with
      | .ok i => .run i s
      | .error _ => .settled (.next (acceptIllegal p rest s))
  | _ =>
    match decodeCmd s.cmdLatch with
    | .ok i => .run i s
    | .error _ => .settled (.fault .latchNotCommand)

/-- The next event. A configuration that is not one of this hardware is refused (R8). -/
def fetch (s : State) : Fetched :=
  if s.cfg.legal then
    match s.schedule with
    | [] => fetchSequencer s
    | .sequencer :: rest => fetchSequencer { s with schedule := rest }
    | .codec op arg :: rest => .run (decodeCodec (codecWord op arg)) { s with schedule := rest }
    | .reset :: rest => .settled (.next (resetEvent { s with schedule := rest }))
  else .settled (.refused .illegalConfiguration)

/-- The state in which the next step fetches the word `p`: a CMD word is presented at the command port of
an IDLE sequencer, with timestamp 0, and the sequencer is to move; a CODEC word is driven at the codec
port (log 12). -/
def presentWord (p : PortWord) (s : State) : State :=
  match p with
  | .cmd w =>
    { abandonRequest s with
      seq := .idle
      commands := ⟨w, 0⟩ :: s.commands
      schedule := .sequencer :: s.schedule }
  | .codec q =>
    { s with schedule := .codec (q.extractLsb' 32 2) (q.extractLsb' 0 32) :: s.schedule }

end Sys2Proof.Machine
end

