-- ==== Sys2Proof/Machine/Step.lean ====
section
/-! DEFINITION. One event of the machine (10_state.md rule R16), and a word placed where the next step
fetches it. -/

namespace Sys2Proof.Machine

/-- What was fetched is run. -/
def runFetched : Fetched → Result
  | .run i t => exec i t
  | .settled o => o

/-- One event. -/
def step (s : State) : Host.Outcome State Fault Refusal := runFetched (fetch s)

/-- The table word `w` placed where the next step fetches its instruction (log 12). -/
def State.withFetchWord (s : State) (nbits w : Nat) : State :=
  match portWordOfTable nbits w with
  | some p => presentWord p s
  | none => s

end Sys2Proof.Machine
end

