-- ==== Sys2Proof/Machine/Assembler.lean ====
section
/-! DEFINITION. The textual form of the commands (30_encoding.md rule R60): one line to one port word. -/

namespace Sys2Proof.Assembler

/-- The line up to a comment: "a `;` starts a comment". -/
def beforeComment : List Char → List Char
  | [] => []
  | c :: cs => if c = ';' then [] else c :: beforeComment cs

/-- The words of a line, between blanks. The second argument is the word being read. -/
def splitWords : List Char → List Char → List (List Char)
  | [], [] => []
  | [], acc => [acc.reverse]
  | c :: cs, acc =>
    if c = ' ' ∨ c = '\t' then
      match acc with
      | [] => splitWords cs []
      | _ => acc.reverse :: splitWords cs []
    else splitWords cs (c :: acc)

/-- The value of a digit, below 16. -/
def digit (c : Char) : Option Nat :=
  if '0' ≤ c ∧ c ≤ '9' then some (c.toNat - '0'.toNat)
  else if 'a' ≤ c ∧ c ≤ 'f' then some (c.toNat - 'a'.toNat + 10)
  else if 'A' ≤ c ∧ c ≤ 'F' then some (c.toNat - 'A'.toNat + 10)
  else none

/-- Digits of a base, after a value already read; `_` is a separator with no meaning (00_scope.md section 5).
DESIGN CHOICE (log 14): `_` may stand anywhere, so that separators without a digit are the numeral 0. -/
def digits (base : Nat) : List Char → Nat → Option Nat
  | [], acc => some acc
  | c :: cs, acc =>
    if c = '_' then digits base cs acc
    else
      match digit c with
      | some d => if d < base then digits base cs (acc * base + d) else none
      | none => none

/-- A numeral: decimal, or hexadecimal after `0x`. DESIGN CHOICE (log 14): every operand takes these two forms,
which R60 states for RDBUS and RDSHUNT; a binary numeral after `0b` is refused. -/
def numeral : List Char → Option Nat
  | [] => none
  | '0' :: 'x' :: c :: cs => digits 16 (c :: cs) 0
  | cs => digits 10 cs 0

/-- A numeral below a bound. -/
def boundedNumeral (bound : Nat) (cs : List Char) : Option Nat :=
  match numeral cs with
  | some n => if n < bound then some n else none
  | none => none

/-- A signed decimal numeral. -/
def signedNumeral : List Char → Option Int
  | [] => none
  | '-' :: c :: cs => (digits 10 (c :: cs) 0).map (fun n => -(n : Int))
  | cs => (digits 10 cs 0).map (fun n => (n : Int))

/-- A field assignment, name and value. -/
def assignment : List Char → List Char → Option (List Char × Nat)
  | [], _ => none
  | c :: cs, name =>
    if c = '=' then (numeral cs).map (fun n => (name.reverse, n)) else assignment cs (c :: name)

/-- A flag value. -/
def flag : Nat → Option Bool
  | 0 => some false
  | 1 => some true
  | _ => none

/-- A 3-bit code. -/
def code3 (n : Nat) : Option (BitVec 3) := if n < 8 then some (BitVec.ofNat 3 n) else none

/-- One field of the settings by its name (R60). -/
def setField (s : Settings) (name : List Char) (n : Nat) : Option Settings :=
  if name = "en1".toList then (flag n).map (fun v => { s with en1 := v })
  else if name = "en2".toList then (flag n).map (fun v => { s with en2 := v })
  else if name = "en3".toList then (flag n).map (fun v => { s with en3 := v })
  else if name = "avg".toList then (code3 n).map (fun v => { s with avg := v })
  else if name = "vbus_ct".toList then (code3 n).map (fun v => { s with vbusCt := v })
  else if name = "vsh_ct".toList then (code3 n).map (fun v => { s with vshCt := v })
  else if name = "mode".toList then (code3 n).map (fun v => { s with mode := v })
  else none

/-- The fields by name "in any order", "an omitted field being 0". A field named twice is refused: DESIGN
CHOICE (log 14). -/
def settingsFields : List (List Char) → List (List Char) → Settings → Option Settings
  | [], _, s => some s
  | w :: ws, seen, s =>
    match assignment w [] with
    | none => none
    | some (name, n) =>
      if name ∈ seen then none
      else
        match setField s name n with
        | none => none
        | some s' => settingsFields ws (name :: seen) s'

/-- All fields 0. -/
def noSettings : Settings :=
  { en1 := false, en2 := false, en3 := false, avg := 0#3, vbusCt := 0#3, vshCt := 0#3, mode := 0#3 }

/-- The operands of CONFIG: one numeral that is the 15-bit operand, or fields by name. -/
def configOperand (ws : List (List Char)) : Option Settings :=
  match ws with
  | [w] =>
    match boundedNumeral 32768 w with
    | some n => some (settingsOf (BitVec.ofNat 32 n))
    | none => settingsFields ws [] noSettings
  | _ => settingsFields ws [] noSettings

/-- A mnemonic without operands. -/
def plainMnemonic (m : List Char) : Option Instr :=
  if m = "DEFCFG".toList then some .defcfg
  else if m = "RDMFR".toList then some .rdmfr
  else if m = "RDDIE".toList then some .rddie
  else if m = "RDCFG".toList then some .rdcfg
  else if m = "RDMASK".toList then some .rdmask
  else if m = "SAMPLE".toList then some .sample
  else none

/-- A mnemonic with one numeral. -/
def operandMnemonic (m w : List Char) : Option Instr :=
  if m = "RDBUS".toList then (boundedNumeral 65536 w).map (fun n => .rdbus n)
  else if m = "RDSHUNT".toList then (boundedNumeral 65536 w).map (fun n => .rdshunt n)
  else if m = "DECBUS".toList then
    (boundedNumeral 65536 w).map (fun n => .decbus 0#16 (BitVec.ofNat 16 n))
  else if m = "DECSHUNT".toList then
    (boundedNumeral 65536 w).map (fun n => .decshunt 0#16 (BitVec.ofNat 16 n))
  else if m = "ENCBUS".toList then (signedNumeral w).map (fun i => .encbus i)
  else if m = "ENCSHUNT".toList then (signedNumeral w).map (fun i => .encshunt i)
  else none

/-- The instruction of the words of a line. -/
def instrOfWords : List (List Char) → Option Instr
  | [] => none
  | m :: ws =>
    if m = "CONFIG".toList then (configOperand ws).map (fun s => .config s)
    else
      match ws with
      | [] => plainMnemonic m
      | [w] => operandMnemonic m w
      | _ => none

/-- One line to the port word it stands for; none where it is no command. -/
def assemble (line : String) : Option PortWord :=
  match instrOfWords (splitWords (beforeComment line.toList) []) with
  | some i => if i.wellFormed then some (encode i) else none
  | none => none

end Sys2Proof.Assembler
end

