-- ==== Sys2Proof/Safety.lean ====
section
/-! DEFINITION. What the statements speak of: the rules of the spec written once more as plain functions
and predicates, apart from the machine's own operations, and the invariants. -/

namespace Sys2Proof.Safety

open Sys2Proof.Machine

/-! The commands, by the rules. -/

/-- Whether an instruction is one of the nine commands of the CMD format (30_encoding.md rule R53). -/
def isCommand : Instr → Bool
  | .decbus _ _ => false
  | .decshunt _ _ => false
  | .encbus _ => false
  | .encshunt _ => false
  | _ => true

/-- Whether the operand of a command passes test (5) of rule R52. -/
def operandOk : Instr → Bool
  | .rdbus ch => validChannel ch
  | .rdshunt ch => validChannel ch
  | _ => true

/-- The micro-sequence of a command, from its rule: R90 to R95, R112, R113, R121. -/
def program (c : Config) : Instr → List Transaction
  | .rdbus 1 => [.read .bus1]
  | .rdbus 2 => [.read .bus2]
  | .rdbus 3 => [.read .bus3]
  | .rdshunt 1 => [.read .shunt1]
  | .rdshunt 2 => [.read .shunt2]
  | .rdshunt 3 => [.read .shunt3]
  | .config s => [.write .config (pack c.layout s)]
  | .defcfg => [.write .config c.defaultConfig]
  | .rdmfr => [.read .mfrId]
  | .rddie => [.read .dieId]
  | .rdcfg => [.read .config]
  | .rdmask => [.read .maskEnable]
  | .sample => [.read .bus1, .read .shunt1, .read .bus2, .read .shunt2, .read .bus3, .read .shunt3]
  | _ => []

/-- The raw value at a place of a list of answers; a place beyond the list reads 0 and is never asked for. -/
def rawAt (raws : List Raw) (k : Nat) : Raw := raws.getD k 0#16

/-- The data of a command that ended well, from its rule and the raw values its reads brought (R19). -/
def resultOf (c : Config) (ts : Nat) (raws : List Raw) : Instr → OkData
  | .rdbus _ => .value (microvolts (decBus c (rawAt raws 0)))
  | .rdshunt _ => .value (microvolts (decShunt c (rawAt raws 0)))
  | .rdmfr => .value (zext32 (rawAt raws 0))
  | .rddie => .value (zext32 (rawAt raws 0))
  | .rdcfg => .value (zext32 (rawAt raws 0))
  | .rdmask => .value (zext32 (rawAt raws 0))
  | .sample =>
    .sample
      { timestamp := ts
        volts :=
          { bus1 := microvolts (decBus c (rawAt raws 0))
            shunt1 := microvolts (decShunt c (rawAt raws 1))
            bus2 := microvolts (decBus c (rawAt raws 2))
            shunt2 := microvolts (decShunt c (rawAt raws 3))
            bus3 := microvolts (decBus c (rawAt raws 4))
            shunt3 := microvolts (decShunt c (rawAt raws 5)) } }
  | _ => .nothing

/-- The events of the transactions of a command, from the answers: one request and one answer at a time,
the end at the first failure (R16, R44, R122), and the answers that are left. None where the answers
run out. -/
def transactions (c : Config) (i : Instr) (ts : Nat) :
    List Transaction → List Raw → List Answer → Option (List PortEvent × List Answer)
  | [], raws, answers => some ([.responded (.ok (resultOf c ts raws i))], answers)
  | _ :: _, _, [] => none
  | t :: _, _, .err code :: rest =>
    some ([.requested (requestOf c t), .answered (.err (tePort c code)),
      .responded (.error (.busError (tePort c code)))], rest)
  | t :: more, raws, .ok byte0 byte1 :: rest =>
    (transactions c i ts more (raws ++ [rawOfBytes byte0 byte1]) rest).map fun out =>
      ([.requested (requestOf c t), .answered (.ok byte0 byte1)] ++ out.1, out.2)

/-- A whole command "as one big step that consumes a list of transport answers" (R15): its events, from
its ACCEPT to its response, and the answers that are left. -/
def bigStep (c : Config) (p : Presented) (answers : List Answer) :
    Option (List PortEvent × List Answer) :=
  match decodeCmd p.word with
  | .error _ =>
    some ([.accepted p.word (tsPort c p.ts), .responded (.error .illegalCommand)], answers)
  | .ok i =>
    if operandOk i then
      (transactions c i (tsPort c p.ts) (program c i) [] answers).map fun out =>
        (.accepted p.word (tsPort c p.ts) :: out.1, out.2)
    else some ([.accepted p.word (tsPort c p.ts), .responded (.error .invalidChannel)], answers)

/-- How many of some events are transport requests. -/
def requestCount (events : List PortEvent) : Nat :=
  (events.filter fun e =>
    match e with
    | .requested _ => true
    | _ => false).length

/-! The invariants. -/

/-- What every state of a machine of a legal configuration keeps. -/
structure Inv (s : State) : Prop where
  /-- The configuration is one of this hardware (R8, R35, R114, R115). -/
  legal : s.cfg.legal = true
  /-- The timestamp latch fits `TS_WIDTH` bits (R13). -/
  tsLatch : s.tsLatch < 2 ^ s.cfg.tsWidth
  /-- The error register fits `TE_WIDTH` bits (R18). -/
  respErr : s.respErr < 2 ^ s.cfg.teWidth
  /-- The timestamp of the response fits `TS_WIDTH` bits (R18). -/
  respTs : s.respSample.timestamp < 2 ^ s.cfg.tsWidth
  /-- A busy sequencer holds a legal command with a valid operand, and `STEP` is one of its steps (R11, R14, R16). -/
  latch : s.seq ≠ .idle → ∃ i, decodeCmd s.cmdLatch = .ok i ∧ operandOk i = true ∧
    s.stepCtr.toNat < (program s.cfg i).length
  /-- In WAIT the request of step `STEP` is outstanding (R15). -/
  pending : s.seq = .wait → ∀ i, decodeCmd s.cmdLatch = .ok i →
    s.pending = (program s.cfg i)[s.stepCtr.toNat]?.map (requestOf s.cfg)
  /-- Outside WAIT no request is outstanding (R44). -/
  noPending : s.seq ≠ .wait → s.pending = none
  /-- A valid response stands only in IDLE (R16, R18), and its status code is one of the four (R58). -/
  valid : s.respValid = true → s.seq = .idle ∧ s.respStatus.toNat ≤ 3
  /-- `codec_out` is the function of the codec port's inputs that R24 and R55 give. -/
  codec : s.codecOut = codecPort s.cfg s.codecOp s.codecIn

/-- The response of the last command, if nothing has invalidated it: the next ACCEPT does (R18), and RESET (R160). -/
def currentResponse : List PortEvent → Option Response
  | events =>
    events.foldl (fun now e =>
      match e with
      | .accepted _ _ => none
      | .reset => none
      | .responded r => some r
      | .requested _ => now
      | .answered _ => now
      | .codec _ _ _ => now) none

/-- The response registers show a response: the registers that R19 gives a value hold it. -/
def Shows (s : State) : Response → Prop
  | .ok (.value d) => s.respStatus = 0#3 ∧ s.respData = d
  | .ok (.sample p) => s.respStatus = 0#3 ∧ s.respData = 0#32 ∧ s.respSample = p
  | .ok .nothing => s.respStatus = 0#3 ∧ s.respData = 0#32
  | .error .invalidChannel => s.respStatus = 1#3
  | .error (.busError code) => s.respStatus = 2#3 ∧ s.respErr = code
  | .error .illegalCommand => s.respStatus = 3#3

/-- `RESP_VALID` is 1 exactly while the last response stands, and the registers show it (R18, R19). -/
def ResponseShown (s : State) : Prop :=
  match currentResponse s.trace with
  | none => s.respValid = false
  | some r => s.respValid = true ∧ Shows s r

/-- One event of the protocol of rule R44: an ACCEPT in IDLE, a request, its answer, the next request or
the response; RESET and the codec port at any time. None where the event is out of order. -/
def protocolEvent (now : SeqState) (e : PortEvent) : Option SeqState :=
  match now, e with
  | .idle, .accepted _ _ => some .issue
  | .issue, .requested _ => some .wait
  | .wait, .answered _ => some .issue
  | .issue, .responded _ => some .idle
  | _, .reset => some .idle
  | _, .codec _ _ _ => some now
  | _, _ => none

/-- The protocol over a whole trace, from IDLE. -/
def protocol (events : List PortEvent) : Option SeqState :=
  events.foldl (fun now e => now.bind fun q => protocolEvent q e) (some .idle)

/-- The trace keeps the order of rule R44 and leads to the sequencer's own control state. -/
def TraceInOrder (s : State) : Prop := protocol s.trace = some s.seq

/-! What one command may depend on (10_state.md rule R20). -/

/-- Two states agree on everything that a later command, or the rest of the command in progress, may
depend on: the constants, the control state, what stands at the ports, and the registers that the
command in progress has written. -/
structure Agree (s t : State) : Prop where
  cfg : s.cfg = t.cfg
  seq : s.seq = t.seq
  pending : s.pending = t.pending
  commands : s.commands = t.commands
  answers : s.answers = t.answers
  schedule : s.schedule = t.schedule
  stepCtr : s.seq ≠ .idle → s.stepCtr = t.stepCtr
  cmdLatch : s.seq ≠ .idle → s.cmdLatch = t.cmdLatch
  tsLatch : s.seq ≠ .idle → decodeCmd s.cmdLatch = .ok .sample → s.tsLatch = t.tsLatch
  sampleBuf : s.seq ≠ .idle → decodeCmd s.cmdLatch = .ok .sample →
    ∀ k, k < s.stepCtr.toNat → s.sampleBuf.slot k = t.sampleBuf.slot k

/-! The codec, by its rules. -/

/-- `q` is the integer nearest to `x / d`, a tie going away from zero (R74, D5). -/
def Nearest (x : Int) (d : Nat) (q : Int) : Prop :=
  2 * |x - q * d| ≤ d ∧ (2 * |x - q * d| = d → |x| < |q * d|)

/-- A 32-bit word is a signed number of microvolts: the count of a raw value, which is the floor of an
eighth of the signed 16-bit number, times a scale constant (R71 to R73). -/
def IsDecodeOf (lsb : Nat) (raw : Raw) (v : Word) : Prop := v.toInt = raw.toInt / 8 * lsb

/-- A raw value is the encoding of a number of microvolts: the nearest count, clamped to the signed
13-bit range, over three zero bits (R74, R75). -/
def IsEncodeOf (lsb : Nat) (phys : Int) (raw : Raw) : Prop :=
  ∃ q, Nearest phys lsb q ∧ raw.toInt = 8 * max (-4096) (min 4095 q)

/-! The events of a command, each with everything it leaves unchanged: the next state is the state
itself but for the fields that are written out. Where the spec promises nothing of a register, that it is
unchanged is the model's choice: the latches and the buffer outside a command (log 15), and the response
registers from an ACCEPT to the next response (log 17). -/

/-- ACCEPT starts the command (R16): `RESP_VALID <- 0`, the word is latched, for SAMPLE the timestamp too,
`STEP` is 0, and no request is sent. That the other response registers keep their old contents is the
model's choice (log 17). -/
def Starts (i : Instr) (latchTs : Bool) : Prop :=
  ∀ (s : State) (p : Presented) (cs : List Presented), s.seq = .idle → s.commands = p :: cs →
    exec i s = .next { s with
      commands := cs
      respValid := false
      cmdLatch := p.word
      tsLatch := if latchTs then p.ts % 2 ^ s.cfg.tsWidth else s.tsLatch
      stepCtr := 0#3
      seq := .issue
      trace := s.trace ++ [.accepted p.word (p.ts % 2 ^ s.cfg.tsWidth)] }

/-- ACCEPT raises InvalidChannel (R131): the status is 1, the sequencer stays IDLE, the word is not
latched, no request is sent; the data registers and `RESP_ERR` hold no value. -/
def TurnsAwayChannel (i : Instr) : Prop :=
  ∀ (s : State) (p : Presented) (cs : List Presented), s.seq = .idle → s.commands = p :: cs →
    ∃ t, exec i s = .next t ∧ t = { s with
      commands := cs
      respValid := true
      respStatus := 1#3
      respErr := t.respErr
      respData := t.respData
      respSample := t.respSample
      trace := s.trace ++ [.accepted p.word (p.ts % 2 ^ s.cfg.tsWidth),
        .responded (.error .invalidChannel)]
      draws := t.draws }

/-- ISSUE at step `k` sends one request and waits for its answer (R16). -/
def Sends (i : Instr) (k : Nat) (r : Config → Request) : Prop :=
  ∀ s : State, s.seq = .issue → s.stepCtr.toNat = k →
    exec i s = .next { s with
      pending := some (r s.cfg)
      seq := .wait
      trace := s.trace ++ [.requested (r s.cfg)] }

/-- A failed answer at step `k` ends the command with BusError and the transport's code (R132, R137). -/
def FailsAt (i : Instr) (k : Nat) : Prop :=
  ∀ (s : State) (code : Nat) (rest : List Answer),
    s.seq = .wait → s.stepCtr.toNat = k → s.answers = .err code :: rest →
    ∃ t, exec i s = .next t ∧ t = { s with
      answers := rest
      pending := none
      seq := .idle
      respValid := true
      respStatus := 2#3
      respErr := code % 2 ^ s.cfg.teWidth
      respData := t.respData
      respSample := t.respSample
      trace := s.trace ++ [.answered (.err (code % 2 ^ s.cfg.teWidth)),
        .responded (.error (.busError (code % 2 ^ s.cfg.teWidth)))]
      draws := t.draws }

/-- A successful answer at step 0 ends the command with one 32-bit value that is right for the raw value
of the two bytes, the most significant byte first (R19, R40). -/
def EndsWithValue (i : Instr) (right : Config → Raw → Word → Prop) : Prop :=
  ∀ (s : State) (byte0 byte1 : Byte) (rest : List Answer), s.cfg.legal = true →
    s.seq = .wait → s.stepCtr.toNat = 0 → s.answers = .ok byte0 byte1 :: rest →
    ∃ t, exec i s = .next t ∧ right s.cfg (byte0 ++ byte1) t.respData ∧ t = { s with
      answers := rest
      pending := none
      seq := .idle
      respValid := true
      respStatus := 0#3
      respErr := t.respErr
      respData := t.respData
      respSample := t.respSample
      trace := s.trace ++ [.answered (.ok byte0 byte1), .responded (.ok (.value t.respData))]
      draws := t.draws }

/-- A successful answer at step 0 ends the command with no data: `RESP_DATA` is 0 (R19). -/
def EndsWithNothing (i : Instr) : Prop :=
  ∀ (s : State) (byte0 byte1 : Byte) (rest : List Answer),
    s.seq = .wait → s.stepCtr.toNat = 0 → s.answers = .ok byte0 byte1 :: rest →
    ∃ t, exec i s = .next t ∧ t = { s with
      answers := rest
      pending := none
      seq := .idle
      respValid := true
      respStatus := 0#3
      respErr := t.respErr
      respData := 0#32
      respSample := t.respSample
      trace := s.trace ++ [.answered (.ok byte0 byte1), .responded (.ok .nothing)]
      draws := t.draws }

/-- A use of the codec port (R24): the output is right for the inputs, and nothing but the port (and the
record of the event) changes. -/
def DrivesCodec (i : Instr) (op : BitVec 2) (arg : Word) (right : Config → Word → Prop) : Prop :=
  ∀ s : State, s.cfg.legal = true →
    ∃ out, right s.cfg out ∧ exec i s = .next { s with
      codecOp := op
      codecIn := arg
      codecOut := out
      trace := s.trace ++ [.codec op arg out] }

/-! Command words, by the tests of rule R52. -/

/-- Tests (1) to (4) of rule R52, one of which an illegal word fails (R56). -/
def IllegalWord (w : Word) : Prop :=
  (field w 24 8 = 0#8 ∨ 9 < (field w 24 8).toNat) ∨ field w 16 8 ≠ 0#8 ∨
    (4 ≤ (field w 24 8).toNat ∧ field w 0 16 ≠ 0#16) ∨ (field w 24 8 = 3#8 ∧ w.getLsbD 15 = true)

/-- Test (5) of rule R52: RDBUS or RDSHUNT and `w[15:0]` is not 1, 2 or 3. -/
def BadChannelWord (w : Word) : Prop :=
  (field w 24 8 = 1#8 ∨ field w 24 8 = 2#8) ∧
    field w 0 16 ≠ 1#16 ∧ field w 0 16 ≠ 2#16 ∧ field w 0 16 ≠ 3#16

/-- The words of a command with a channel: its opcode, a reserved field of 0, and the channel in all sixteen
operand bits (R53, R54). -/
def ChannelWords (i : Nat → Instr) (opcode : BitVec 8) : Prop :=
  ∀ (w : Word) (ch : Nat), decode (.cmd w) = .ok (i ch) ↔
    field w 24 8 = opcode ∧ field w 16 8 = 0#8 ∧ (field w 0 16).toNat = ch

/-- A command without operand has one word; every other word of its opcode is illegal (R52, R53). -/
def OnlyWord (i : Instr) (word : Word) : Prop :=
  (∀ w : Word, decode (.cmd w) = .ok i ↔ w = word) ∧
  (∀ w : Word, field w 24 8 = field word 24 8 → w ≠ word → IllegalWord w)

/-- The words of CONFIG: opcode 0x03, a reserved field of 0, bit 15 of the operand 0, and the seven fields in
their places (R53, R54); every other word of the opcode is illegal (R52). -/
def ConfigWords : Prop :=
  (∀ (w : Word) (settings : Settings), decode (.cmd w) = .ok (.config settings) ↔
    field w 24 8 = 0x03#8 ∧ field w 16 8 = 0#8 ∧ w.getLsbD 15 = false ∧
    settings = ⟨w.getLsbD 14, w.getLsbD 13, w.getLsbD 12, field w 9 3, field w 6 3, field w 3 3,
      field w 0 3⟩) ∧
  (∀ w : Word, field w 24 8 = 0x03#8 → (field w 16 8 ≠ 0#8 ∨ w.getLsbD 15 = true) → IllegalWord w)

end Sys2Proof.Safety
end

