-- ==== Sys2Proof/Certificates/Slice0/Obligations.lean ====
section
/-! DEFINITION. The statements about the machine, for the provers. -/

open Sys2Proof Sys2Proof.Machine Sys2Proof.Safety

/-! The value codec (40_codec.md). -/

/-- R71: the count is the floor of an eighth, lies in -4096 to 4095, and equals `signed_13(raw[15:3])`. -/
def Obligations.CountIsTheSigned13BitField : Prop :=
  ∀ raw : Raw, count raw = ⌊(raw.toInt : ℚ) / 8⌋ ∧ -4096 ≤ count raw ∧ count raw ≤ 4095 ∧
    count raw = (raw.extractLsb' 3 13).toInt

/-- R72 (and R76 for it): DECBUS answers, at every state of a legal configuration, the count times
`BUS_LSB_UV`, exact in 32 bits, whatever `codec_in[31:16]` holds, and touches nothing but the codec port. -/
def Obligations.DecbusIsCountTimesBusScale : Prop :=
  ∀ ignored raw : Raw, DrivesCodec (.decbus ignored raw) 0b00#2 (ignored ++ raw)
    (fun c out => IsDecodeOf c.busLsbUv raw out)

/-- R73: DECSHUNT, with `SHUNT_LSB_UV`. -/
def Obligations.DecshuntIsCountTimesShuntScale : Prop :=
  ∀ ignored raw : Raw, DrivesCodec (.decshunt ignored raw) 0b01#2 (ignored ++ raw)
    (fun c out => IsDecodeOf c.shuntLsbUv raw out)

/-- R74: ENCBUS answers, for every signed 32-bit number of microvolts, the zero-extended pattern of the
nearest count, a tie away from zero, clamped to the signed 13-bit range, with three zero bits below. -/
def Obligations.EncbusRoundsToNearestAndSaturates : Prop :=
  ∀ phys : Int, signedMicrovolts phys = true →
    DrivesCodec (.encbus phys) 0b10#2 (BitVec.ofInt 32 phys) (fun c out =>
      ∃ raw : Raw, out = (0#16 ++ raw : Word) ∧ raw.extractLsb' 0 3 = 0#3 ∧
        IsEncodeOf c.busLsbUv phys raw)

/-- R75: ENCSHUNT is ENCBUS with `SHUNT_LSB_UV`. -/
def Obligations.EncshuntRoundsToNearestAndSaturates : Prop :=
  ∀ phys : Int, signedMicrovolts phys = true →
    DrivesCodec (.encshunt phys) 0b11#2 (BitVec.ofInt 32 phys) (fun c out =>
      ∃ raw : Raw, out = (0#16 ++ raw : Word) ∧ raw.extractLsb' 0 3 = 0#3 ∧
        IsEncodeOf c.shuntLsbUv phys raw)

/-- R79 (a), (e) and (b): encode inverts decode up to the padding bits, decode after encode after decode is
decode, and 0 decodes to 0, for both pairs and every scale of rule R8. -/
def Obligations.EncodeInvertsDecodeUpToPadding : Prop :=
  ∀ (lsb : Nat) (raw : Raw), lsbInRange lsb = true →
    encodeVolts lsb (decodeVolts lsb raw) = raw &&& 0xFFF8#16 ∧
    decodeVolts lsb (encodeVolts lsb (decodeVolts lsb raw)) = decodeVolts lsb raw ∧
    decodeVolts lsb 0x0000#16 = 0

/-- R79 (c) and (f): the sign of a decode is the sign bit, and both directions are monotonic. -/
def Obligations.CodecKeepsSignAndOrder : Prop :=
  ∀ lsb : Nat, lsbInRange lsb = true →
    (∀ raw : Raw, (raw.getLsbD 15 = true → decodeVolts lsb raw < 0) ∧
      (raw.getLsbD 15 = false → 0 ≤ decodeVolts lsb raw)) ∧
    (∀ a b : Raw, a.toInt ≤ b.toInt → decodeVolts lsb a ≤ decodeVolts lsb b) ∧
    (∀ x y : Int, x ≤ y → (encodeVolts lsb x).toInt ≤ (encodeVolts lsb y).toInt)

/-- R79 (d): the magnitudes of the two decodes differ exactly when the count is not 0, that is for every
raw value outside 0x0000 to 0x0007. -/
def Obligations.TheTwoDecodesDifferOutsideZeroCount : Prop :=
  ∀ (c : Config) (raw : Raw), c.legal = true →
    (|decBus c raw| ≠ |decShunt c raw| ↔ count raw ≠ 0) ∧ (count raw ≠ 0 ↔ 7 < raw.toNat)

/-- R79 (g): within the range, decode after encode is at most half a scale unit away. -/
def Obligations.EncodeErrsByAtMostHalfAUnit : Prop :=
  ∀ (lsb : Nat) (phys : Int), lsbInRange lsb = true → -4096 * (lsb : Int) ≤ phys →
    phys ≤ 4095 * (lsb : Int) → 2 * |decodeVolts lsb (encodeVolts lsb phys) - phys| ≤ lsb

/-- R24: whatever `SEQ` is, a use of the codec port changes the port (and the record of events) alone, and the
output is one function of `codec_op`, `codec_in` and the two scale constants; and no other step, whatever it
decodes, disturbs the port. -/
def Obligations.CodecPortIsIndependentOfTheSequencer : Prop :=
  (∀ (s : State) (op : BitVec 2) (arg : Word) (rest : List Turn), s.cfg.legal = true →
    s.schedule = .codec op arg :: rest →
    step s = .next { s with
      schedule := rest
      codecOp := op
      codecIn := arg
      codecOut := codecPort s.cfg op arg
      trace := s.trace ++ [.codec op arg (codecPort s.cfg op arg)] }) ∧
  (∀ (c d : Config) (op : BitVec 2) (arg : Word), c.busLsbUv = d.busLsbUv →
    c.shuntLsbUv = d.shuntLsbUv → codecPort c op arg = codecPort d op arg) ∧
  (∀ s t : State, step s = .next t → (∀ op arg rest, s.schedule ≠ .codec op arg :: rest) →
    t.codecOp = s.codecOp ∧ t.codecIn = s.codecIn ∧ t.codecOut = s.codecOut)

/-- R55, last clauses: a decode reads `codec_in[15:0]` only. -/
def Obligations.DecodesIgnoreTheUpperHalf : Prop :=
  ∀ (c : Config) (upper upper' raw : Raw),
    codecPort c 0b00#2 (upper ++ raw) = codecPort c 0b00#2 (upper' ++ raw) ∧
    codecPort c 0b01#2 (upper ++ raw) = codecPort c 0b01#2 (upper' ++ raw)

/-! The commands: each event of each, with its frame (41_register_reads.md, 42_configuration.md). In every
frame below the clause that a register of which the spec promises nothing is unchanged is the model's
choice: the latches and the buffer outside a command (log 15), the response registers other than
`RESP_VALID` from an ACCEPT to the next response (log 17). -/

/-- R90: RDBUS, for channels 1, 2 and 3, starts, reads the bus-voltage register of the channel at step 0,
answers BusError on a failure, and else the decoded voltage; every other channel is turned away at ACCEPT. -/
def Obligations.RdbusReadsAndDecodesItsChannel : Prop :=
  ChannelWords (fun ch => .rdbus ch) 0x01#8 ∧
  (∀ ch : Nat, ch = 1 ∨ ch = 2 ∨ ch = 3 → Starts (.rdbus ch) false ∧ FailsAt (.rdbus ch) 0 ∧
    EndsWithValue (.rdbus ch) (fun c raw v => IsDecodeOf c.busLsbUv raw v)) ∧
  Sends (.rdbus 1) 0 (fun c => .read c.devAddr c.regMap.bus1.addr 2#2) ∧
  Sends (.rdbus 2) 0 (fun c => .read c.devAddr c.regMap.bus2.addr 2#2) ∧
  Sends (.rdbus 3) 0 (fun c => .read c.devAddr c.regMap.bus3.addr 2#2) ∧
  (∀ ch : Nat, ¬(ch = 1 ∨ ch = 2 ∨ ch = 3) → TurnsAwayChannel (.rdbus ch))

/-- R91: RDSHUNT, "symmetric to the above". -/
def Obligations.RdshuntReadsAndDecodesItsChannel : Prop :=
  ChannelWords (fun ch => .rdshunt ch) 0x02#8 ∧
  (∀ ch : Nat, ch = 1 ∨ ch = 2 ∨ ch = 3 → Starts (.rdshunt ch) false ∧ FailsAt (.rdshunt ch) 0 ∧
    EndsWithValue (.rdshunt ch) (fun c raw v => IsDecodeOf c.shuntLsbUv raw v)) ∧
  Sends (.rdshunt 1) 0 (fun c => .read c.devAddr c.regMap.shunt1.addr 2#2) ∧
  Sends (.rdshunt 2) 0 (fun c => .read c.devAddr c.regMap.shunt2.addr 2#2) ∧
  Sends (.rdshunt 3) 0 (fun c => .read c.devAddr c.regMap.shunt3.addr 2#2) ∧
  (∀ ch : Nat, ¬(ch = 1 ∨ ch = 2 ∨ ch = 3) → TurnsAwayChannel (.rdshunt ch))

/-- R92 to R95: RDMFR, RDDIE, RDCFG and RDMASK read their register and answer its sixteen bits,
zero-extended, whatever they are. -/
def Obligations.PassThroughReadsReturnTheRawBits : Prop :=
  (OnlyWord .rdmfr 0x05000000#32 ∧ Starts .rdmfr false ∧
    Sends .rdmfr 0 (fun c => .read c.devAddr c.regMap.mfrId.addr 2#2) ∧
    FailsAt .rdmfr 0 ∧ EndsWithValue .rdmfr (fun _ raw v => v = (0#16 ++ raw : Word))) ∧
  (OnlyWord .rddie 0x06000000#32 ∧ Starts .rddie false ∧
    Sends .rddie 0 (fun c => .read c.devAddr c.regMap.dieId.addr 2#2) ∧
    FailsAt .rddie 0 ∧ EndsWithValue .rddie (fun _ raw v => v = (0#16 ++ raw : Word))) ∧
  (OnlyWord .rdcfg 0x07000000#32 ∧ Starts .rdcfg false ∧
    Sends .rdcfg 0 (fun c => .read c.devAddr c.regMap.config.addr 2#2) ∧
    FailsAt .rdcfg 0 ∧ EndsWithValue .rdcfg (fun _ raw v => v = (0#16 ++ raw : Word))) ∧
  (OnlyWord .rdmask 0x08000000#32 ∧ Starts .rdmask false ∧
    Sends .rdmask 0 (fun c => .read c.devAddr c.regMap.maskEnable.addr 2#2) ∧
    FailsAt .rdmask 0 ∧ EndsWithValue .rdmask (fun _ raw v => v = (0#16 ++ raw : Word)))

/-- R112: CONFIG writes the packed word to the configuration register, two bytes, the most significant
first, in one transaction, and answers no data. -/
def Obligations.ConfigWritesThePackedWord : Prop :=
  ConfigWords ∧ ∀ settings : Settings, Starts (.config settings) false ∧
    Sends (.config settings) 0 (fun c => .write c.devAddr c.regMap.config.addr 2#2
      ((pack c.layout settings).extractLsb' 8 8) ((pack c.layout settings).extractLsb' 0 8)) ∧
    FailsAt (.config settings) 0 ∧ EndsWithNothing (.config settings)

/-- R113: DEFCFG writes the constant `DEFAULT_CONFIG`. -/
def Obligations.DefcfgWritesTheDefaultWord : Prop :=
  OnlyWord .defcfg 0x04000000#32 ∧ Starts .defcfg false ∧
    Sends .defcfg 0 (fun c => .write c.devAddr c.regMap.config.addr 2#2
      (c.defaultConfig.extractLsb' 8 8) (c.defaultConfig.extractLsb' 0 8)) ∧
    FailsAt .defcfg 0 ∧ EndsWithNothing .defcfg

/-! The multi-register command (43_sample.md); what was said of the frames above holds here too (logs 15
and 17). -/

/-- R121: the timestamp is latched at ACCEPT; the six steps read their registers in the order of `STEP`; and
the answer of step `k` goes into slot `k`, decoded by the bus scale at an even step and by the shunt scale at
an odd one, the other slots staying as they are. -/
def Obligations.SampleStepsReadDecodeAndStoreInOrder : Prop :=
  Starts .sample true ∧
  Sends .sample 0 (fun c => .read c.devAddr c.regMap.bus1.addr 2#2) ∧
  Sends .sample 1 (fun c => .read c.devAddr c.regMap.shunt1.addr 2#2) ∧
  Sends .sample 2 (fun c => .read c.devAddr c.regMap.bus2.addr 2#2) ∧
  Sends .sample 3 (fun c => .read c.devAddr c.regMap.shunt2.addr 2#2) ∧
  Sends .sample 4 (fun c => .read c.devAddr c.regMap.bus3.addr 2#2) ∧
  Sends .sample 5 (fun c => .read c.devAddr c.regMap.shunt3.addr 2#2) ∧
  ∀ (s : State) (byte0 byte1 : Byte) (rest : List Answer) (k : Nat), s.cfg.legal = true →
    s.seq = .wait → s.stepCtr.toNat = k → k < 6 → s.answers = .ok byte0 byte1 :: rest →
    ∃ t v, exec .sample s = .next t ∧
      IsDecodeOf (if k % 2 = 0 then s.cfg.busLsbUv else s.cfg.shuntLsbUv) (byte0 ++ byte1) v ∧
      (∀ j, t.sampleBuf.slot j = if j = k then some v else s.sampleBuf.slot j)

/-- R120: before step 5 a successful answer leads to the next step and changes nothing but the slot; at any
step a failed answer ends the command with BusError. -/
def Obligations.SampleGoesOnToTheNextStepOrFails : Prop :=
  OnlyWord .sample 0x09000000#32 ∧ (∀ k, k < 6 → FailsAt .sample k) ∧
  ∀ (s : State) (byte0 byte1 : Byte) (rest : List Answer) (k : Nat),
    s.seq = .wait → s.stepCtr.toNat = k → k < 5 → s.answers = .ok byte0 byte1 :: rest →
    ∃ t, exec .sample s = .next t ∧ t = { s with
      answers := rest
      pending := none
      sampleBuf := t.sampleBuf
      stepCtr := BitVec.ofNat 3 (k + 1)
      seq := .issue
      trace := s.trace ++ [.answered (.ok byte0 byte1)] }

/-- R120: at step 5 the decoded shunt voltage of channel 3 goes into `x[5]`, and the whole record, the
latched timestamp and the six slots, is the response; `RESP_DATA` is 0 (R19). -/
def Obligations.SampleHandsOverTheWholeRecord : Prop :=
  ∀ (s : State) (byte0 byte1 : Byte) (rest : List Answer), s.cfg.legal = true →
    s.seq = .wait → s.stepCtr.toNat = 5 → s.answers = .ok byte0 byte1 :: rest →
    ∃ t, exec .sample s = .next t ∧
      IsDecodeOf s.cfg.shuntLsbUv (byte0 ++ byte1) t.sampleBuf.shunt3 ∧
      t = { s with
        answers := rest
        pending := none
        sampleBuf := { s.sampleBuf with shunt3 := t.sampleBuf.shunt3 }
        seq := .idle
        respValid := true
        respStatus := 0#3
        respErr := t.respErr
        respData := 0#32
        respSample := ⟨s.tsLatch, t.sampleBuf⟩
        trace := s.trace ++ [.answered (.ok byte0 byte1),
          .responded (.ok (.sample ⟨s.tsLatch, t.sampleBuf⟩))]
        draws := t.draws }

/-- R122: a SAMPLE whose step `k` is the first to fail sends `k + 1` requests and answers BusError with
the code and no part of the sample, from any IDLE state; the later answers are left. A SAMPLE that succeeds
sends 6 requests. -/
def Obligations.SampleFailsAtTheFirstFailedRead : Prop :=
  ∀ (s : State) (ts : Nat) (cs : List Presented) (good : List (Byte × Byte)) (rest : List Answer),
    s.cfg.legal = true → s.seq = .idle → s.schedule = [] → s.commands = ⟨0x09000000#32, ts⟩ :: cs →
    (∀ code, good.length < 6 →
      s.answers = good.map (fun g => Answer.ok g.1 g.2) ++ .err code :: rest →
      ∃ t events, Host.Core.run Sys2Proof.core (2 * good.length + 3) s = .next t ∧
        t.seq = .idle ∧ t.respValid = true ∧ t.respStatus = 2#3 ∧
        t.respErr = code % 2 ^ s.cfg.teWidth ∧ t.answers = rest ∧ t.commands = cs ∧
        t.trace = s.trace ++ events ∧ requestCount events = good.length + 1 ∧
        currentResponse t.trace = some (.error (.busError (code % 2 ^ s.cfg.teWidth)))) ∧
    (good.length = 6 → s.answers = good.map (fun g => Answer.ok g.1 g.2) ++ rest →
      ∃ t events, Host.Core.run Sys2Proof.core 13 s = .next t ∧
        t.seq = .idle ∧ t.respValid = true ∧ t.respStatus = 0#3 ∧ t.answers = rest ∧
        t.trace = s.trace ++ events ∧ requestCount events = 6)

/-- R96: each of the six single-register reads, when it reaches the bus, makes exactly one request, a read of
two bytes, and exactly one response, whatever the answer is, from any IDLE state. -/
def Obligations.SingleReadsMakeOneRequestAndOneResponse : Prop :=
  ∀ (s : State) (p : Presented) (cs : List Presented) (i : Instr) (a : Answer) (rest : List Answer),
    s.cfg.legal = true → s.seq = .idle → s.schedule = [] → s.commands = p :: cs →
    decodeCmd p.word = .ok i → operandOk i = true →
    ((∃ ch, i = .rdbus ch ∨ i = .rdshunt ch) ∨ i = .rdmfr ∨ i = .rddie ∨ i = .rdcfg ∨ i = .rdmask) →
    s.answers = a :: rest →
    ∃ t reg r, Host.Core.run Sys2Proof.core 3 s = .next t ∧ t.seq = .idle ∧ t.respValid = true ∧
      t.answers = rest ∧
      t.trace = s.trace ++ [.accepted p.word (p.ts % 2 ^ s.cfg.tsWidth),
        .requested (.read s.cfg.devAddr reg 2#2), .answered (answerPort s.cfg a), .responded r]

/-! The configuration word (42_configuration.md). -/

/-- R115: `pack` is injective under any legal layout, each field is found at its position, and every bit no
field covers is 0. -/
def Obligations.PackIsInjectiveUnderALegalLayout : Prop :=
  ∀ l : CfgLayout, l.legal = true →
    (∀ s s' : Settings, pack l s = pack l s' → s = s') ∧
    (∀ s : Settings, unpack l (pack l s) = s) ∧
    (∀ (s : Settings) (k : Nat),
      (∀ f ∈ l.spans, k < f.1 ∨ f.1 + f.2 ≤ k) → (pack l s).getLsbD k = false)

/-- R115, last part, with R54: under the default layout the packed word of a CONFIG command word is its
bits 14:0 under a 0. -/
def Obligations.DefaultLayoutPacksTheOperandAsItStands : Prop :=
  ∀ w : Word, pack CfgLayout.default (settingsOf w) = (0#1 ++ field w 0 15 : Raw)

/-- R61, R114: in every legal configuration DEFCFG is CONFIG of one settings record, with all three
channels enabled, at every state. -/
def Obligations.DefcfgIsConfigOfTheDefaultSettings : Prop :=
  ∀ c : Config, c.legal = true → ∃ s0 : Settings, s0.en1 = true ∧ s0.en2 = true ∧ s0.en3 = true ∧
    pack c.layout s0 = c.defaultConfig ∧
    ∀ s : State, s.cfg = c → exec .defcfg s = exec (.config s0) s

/-! Encodings (30_encoding.md). -/

/-- Every well-formed instruction is read back from its own word. -/
def Obligations.DecodeReadsBackEveryEncoding : Prop :=
  ∀ i : Instr, i.wellFormed = true → decode (encode i) = .ok i

/-- Every word that decodes is the word of its instruction: a word has one meaning, and no bit of it is
dropped. -/
def Obligations.EncodeReadsBackEveryDecoding : Prop :=
  ∀ (p : PortWord) (i : Instr), decode p = .ok i → encode i = p

/-- R53: a word that decodes is of the opcode-table row of its instruction, and a word of the row of a
well-formed command decodes to a command of the same row. -/
def Obligations.OpcodeRowsDecideTheCommand : Prop :=
  (∀ (p : PortWord) (i : Instr), decode p = .ok i → p.ofRow (tableRow i) = true) ∧
  (∀ (w : Word) (i : Instr), isCommand i = true → (PortWord.cmd w).ofRow (tableRow i) = true →
    ∃ j, decodeCmd w = .ok j ∧ tableRow j = tableRow i)

/-- R52, R56: what becomes of every command word at an IDLE sequencer: an illegal word raises
IllegalCommand, else a bad channel raises InvalidChannel, else the command is started. No case sends a
request. -/
def Obligations.OutcomeOfEveryCommandWord : Prop :=
  ∀ (s : State) (p : Presented) (cs : List Presented), s.cfg.legal = true → s.seq = .idle →
    s.schedule = [] → s.commands = p :: cs →
    ∃ t events, step s = .next t ∧ t.trace = s.trace ++ events ∧ requestCount events = 0 ∧
      (IllegalWord p.word → t.seq = .idle ∧ t.respValid = true ∧ t.respStatus = 3#3 ∧
        t.cmdLatch = s.cmdLatch) ∧
      (¬IllegalWord p.word → BadChannelWord p.word → t.seq = .idle ∧ t.respValid = true ∧
        t.respStatus = 1#3 ∧ t.cmdLatch = s.cmdLatch) ∧
      (¬IllegalWord p.word → ¬BadChannelWord p.word → t.seq = .issue ∧ t.respValid = false ∧
        t.cmdLatch = p.word ∧ t.stepCtr = 0#3)

/-- R130: an illegal command word raises IllegalCommand at its ACCEPT event; nothing is recorded, no request
is sent, and nothing else changes. -/
def Obligations.IllegalWordRaisesIllegalCommand : Prop :=
  ∀ (s : State) (p : Presented) (cs : List Presented), s.cfg.legal = true → s.seq = .idle →
    s.schedule = [] → s.commands = p :: cs → IllegalWord p.word →
    ∃ t, step s = .next t ∧ t = { s with
      commands := cs
      respValid := true
      respStatus := 3#3
      respErr := t.respErr
      respData := t.respData
      respSample := t.respSample
      trace := s.trace ++ [.accepted p.word (p.ts % 2 ^ s.cfg.tsWidth),
        .responded (.error .illegalCommand)]
      draws := t.draws }

/-- Words written out from the encodings of rules R53 to R55 decode to what they stand for. -/
def Obligations.SampleWordsDecode : Prop :=
  decode (.cmd 0b00000001_00000000_0000000000000010#32) = .ok (.rdbus 2) ∧
  decode (.cmd 0b00000010_00000000_0000000000000011#32) = .ok (.rdshunt 3) ∧
  decode (.cmd 0b00000011_00000000_0_1_1_0_010_100_100_111#32) =
    .ok (.config ⟨true, true, false, 2#3, 4#3, 4#3, 7#3⟩) ∧
  decode (.cmd 0b00001001_00000000_0000000000000000#32) = .ok .sample ∧
  decode (.codec 0b00_1101111010101101_0001000000000000#34) = .ok (.decbus 0xDEAD#16 0x1000#16) ∧
  decode (.codec 0b10_11111111111111111111110000011000#34) = .ok (.encbus (-1000))

/-- R60: lines of the textual form stand for the words that the rules' own examples give them. -/
def Obligations.TextualFormGivesTheExamplesWords : Prop :=
  Assembler.assemble "RDBUS 1" = some (.cmd 0x01000001#32) ∧
  Assembler.assemble "CONFIG en1=1 en2=1 en3=1 avg=0 vbus_ct=4 vsh_ct=4 mode=7" =
    some (.cmd 0x03007127#32) ∧
  Assembler.assemble "CONFIG 0x7127" = some (.cmd 0x03007127#32) ∧
  Assembler.assemble "ENCBUS -1000 ; a comment" = some (.codec 0x2FFFFFC18#34)

/-! Errors, responses, reset (10_state.md, 60_exceptions.md, 70_reset_and_hazards.md). -/

/-- R137: the one error entry, for every kind and at every state: the code, the transport's code for
BusError, `RESP_VALID` and IDLE; nothing else but the data registers that hold no value, and no request. -/
def Obligations.RaiseDoesExactlyThis : Prop :=
  ∀ (k : ErrorKind) (s : State), ∃ t, raise k s = t ∧
    (t.respStatus = match k with
      | .invalidChannel => 1#3
      | .busError _ => 2#3
      | .illegalCommand => 3#3) ∧
    (∀ code, k = .busError code → t.respErr = code) ∧
    t = { s with
      respValid := true
      respStatus := t.respStatus
      respErr := t.respErr
      respData := t.respData
      respSample := t.respSample
      seq := .idle
      trace := s.trace ++ [.responded (.error k)]
      draws := t.draws }

/-- R132: a failed answer at any step of any of the nine commands raises BusError with the transport's code
unchanged (a code of the port's width), and sends nothing further. -/
def Obligations.BusErrorCarriesTheTransportsCode : Prop :=
  ∀ (i : Instr) (s : State) (code : Nat) (rest : List Answer), isCommand i = true →
    s.seq = .wait → s.stepCtr.toNat < (program s.cfg i).length →
    s.answers = .err code :: rest → code < 2 ^ s.cfg.teWidth →
    ∃ t, exec i s = .next t ∧ t.respValid = true ∧ t.respStatus = 2#3 ∧ t.respErr = code ∧
      t.seq = .idle ∧ t.pending = none ∧ t.answers = rest ∧
      t.trace = s.trace ++ [.answered (.err code), .responded (.error (.busError code))]

/-- R58: the four codes of `RESP_STATUS`, pairwise different, and no other. -/
def Obligations.StatusCodesAreTheFour : Prop :=
  (∀ d, (Response.ok d).status = 0#3) ∧ (Response.error .invalidChannel).status = 1#3 ∧
  (∀ code, (Response.error (.busError code)).status = 2#3) ∧
  (Response.error .illegalCommand).status = 3#3 ∧ ∀ r : Response, r.status.toNat ≤ 3

/-- R18, R19: `RESP_VALID` is 1 exactly while the last response stands, and the registers show it: a step
keeps this. -/
def Obligations.ResponseRegistersShowTheLastResponse : Prop :=
  ∀ s t : State, ResponseShown s → step s = .next t → ResponseShown t

/-- R18: a step that neither delivers a response nor is a RESET leaves `RESP_STATUS`, `RESP_ERR`,
`RESP_DATA` and `RESP_SAMPLE` as they are, and clears `RESP_VALID` only by an ACCEPT event. R18
promises the four until that event; that they keep their contents after it, until the next response, is the
model's choice (log 17). -/
def Obligations.ResponseRegistersKeepTheirValue : Prop :=
  ∀ s t : State, step s = .next t →
    (∃ r, t.trace = s.trace ++ [.responded r] ∨
      ∃ e, t.trace = s.trace ++ [e, .responded r]) ∨
    t.trace = s.trace ++ [.reset] ∨
    (t.respStatus = s.respStatus ∧ t.respErr = s.respErr ∧ t.respData = s.respData ∧
      t.respSample = s.respSample ∧
      (t.respValid = s.respValid ∨
        (t.respValid = false ∧ ∃ w ts, t.trace = s.trace ++ [.accepted w ts])))

/-- R160 (and R161 for this event): RESET puts the sequencer in IDLE with no valid response, at any time; the
constants and what stands at the ports of the host stay, and nothing is sent. -/
def Obligations.ResetEventGoesToIdle : Prop :=
  ∀ (s : State) (rest : List Turn), s.cfg.legal = true → s.schedule = .reset :: rest →
    ∃ t, step s = .next t ∧ t.seq = .idle ∧ t.respValid = false ∧ t.pending = none ∧
      t.cfg = s.cfg ∧ t.commands = s.commands ∧ t.schedule = rest ∧
      t.codecOp = s.codecOp ∧ t.codecIn = s.codecIn ∧ t.codecOut = s.codecOut ∧
      t.trace = s.trace ++ [.reset]

/-- R162: RESET in WAIT abandons the command: no response is delivered, and the answer to the outstanding
request is never taken by a later command. The way the model discards it, from the list of answers at
the RESET event, is the model's choice (log 10). -/
def Obligations.ResetDiscardsTheOutstandingAnswer : Prop :=
  ∀ (s : State) (r : Request) (rest : List Turn), s.cfg.legal = true → s.pending = some r →
    s.schedule = .reset :: rest →
    ∃ t, step s = .next t ∧ t.answers = s.answers.tail ∧ t.respValid = false ∧
      currentResponse t.trace = none

/-- 10_state.md section 10: after reset `SEQ` is IDLE, `RESP_VALID` is 0, and the block is ready for a
command. -/
def Obligations.ResetStateIsIdleAndReady : Prop :=
  State.reset.seq = .idle ∧ State.reset.respValid = false ∧ cmdReady State.reset = true ∧
    State.reset.cfg = Config.default ∧ Config.default.legal = true

/-! The step (10_state.md rule R16). -/

/-- The sequencer's step is exec of the instruction of the word it fetches: the word at the command port in
IDLE, the word in `CMD_LATCH` otherwise; a codec turn is exec of the instruction of the codec word. The
step itself only moves past the schedule's entry. -/
def Obligations.StepRunsTheDecodedInstruction : Prop :=
  (∀ (s : State) (rest : List Turn) (p : Presented) (cs : List Presented) (i : Instr),
    s.cfg.legal = true → (s.schedule = .sequencer :: rest ∨ s.schedule = [] ∧ rest = []) →
    s.seq = .idle → s.commands = p :: cs → decode (.cmd p.word) = .ok i →
    step s = exec i { s with schedule := rest }) ∧
  (∀ (s : State) (rest : List Turn) (i : Instr),
    s.cfg.legal = true → (s.schedule = .sequencer :: rest ∨ s.schedule = [] ∧ rest = []) →
    s.seq ≠ .idle → decode (.cmd s.cmdLatch) = .ok i →
    step s = exec i { s with schedule := rest }) ∧
  (∀ (s : State) (rest : List Turn) (op : BitVec 2) (arg : Word) (i : Instr),
    s.cfg.legal = true → s.schedule = .codec op arg :: rest →
    decode (.codec (codecWord op arg)) = .ok i →
    step s = exec i { s with schedule := rest })

/-- R17: while the sequencer is busy `cmd_ready` is 0 and no command is taken from the port: there is no ACCEPT
event, and the commands stay as they are. -/
def Obligations.BusySequencerTakesNoCommand : Prop :=
  ∀ s t : State, s.seq ≠ .idle → step s = .next t →
    cmdReady s = false ∧ t.commands = s.commands ∧
    ∃ events, t.trace = s.trace ++ events ∧ ∀ w ts, .accepted w ts ∉ events

/-- R14: while a command is in progress `CMD_LATCH` holds its word, and the host may change what it presents
without effect: the step is the same but for the port itself. -/
def Obligations.BusyStepIgnoresTheCommandPort : Prop :=
  ∀ (s t : State) (cs : List Presented), s.seq ≠ .idle → step s = .next t →
    step { s with commands := cs } = .next { t with commands := cs } ∧
    (t.seq ≠ .idle → t.cmdLatch = s.cmdLatch)

/-- R16, R38: where no event is enabled the block waits: in IDLE for a command, in WAIT for an answer. That a
wait is a step which changes nothing is the model's choice (log 4). -/
def Obligations.BlockWaitsForItsEvents : Prop :=
  (∀ s : State, s.cfg.legal = true → s.schedule = [] → s.seq = .idle → s.commands = [] →
    step s = .next s) ∧
  (∀ s : State, Inv s → s.schedule = [] → s.seq = .wait → s.answers = [] → step s = .next s)

/-- R8, R35, R114, R115: a configuration that is none of this hardware is refused, whatever the state; and
the four conditions are what makes a configuration one of this hardware. The rules do not say when the
model refuses: that it does so at every step is the model's choice (log 16). -/
def Obligations.IllegalConfigurationIsRefused : Prop :=
  (∀ s : State, s.cfg.legal = false → step s = .refused .illegalConfiguration) ∧
  (∀ c : Config, c.legal = true ↔
    ((1 ≤ c.busLsbUv ∧ c.busLsbUv ≤ 524287) ∧ (1 ≤ c.shuntLsbUv ∧ c.shuntLsbUv ≤ 524287) ∧
      c.busLsbUv ≠ c.shuntLsbUv) ∧
    (∀ r r', r ∈ usedRegs → r' ∈ usedRegs → c.regAddr r = c.regAddr r' → r = r') ∧
    c.layout.legal = true ∧
    ∃ s0 : Settings, s0.en1 = true ∧ s0.en2 = true ∧ s0.en3 = true ∧
      pack c.layout s0 = c.defaultConfig)

/-! Rules of the whole machine. -/

/-- R21: no step changes a build constant. -/
def Obligations.NoStepChangesAConstant : Prop :=
  ∀ s t : State, step s = .next t → t.cfg = s.cfg

/-- R31, R41, R48: every request a step sends is a two-byte read of one of the ten registers, or a two-byte
write of the configuration register, at the one device address. -/
def Obligations.OnlyMappedRegistersAreReached : Prop :=
  ∀ (s t : State) (events : List PortEvent) (q : Request), step s = .next t →
    t.trace = s.trace ++ events → .requested q ∈ events →
    (∃ r ∈ usedRegs, q = .read s.cfg.devAddr (s.cfg.regAddr r) 2#2) ∨
    (∃ v : Raw, q = .write s.cfg.devAddr (s.cfg.regAddr .config) 2#2 (v.extractLsb' 8 8)
      (v.extractLsb' 0 8))

/-- R48 for the default map: the registers the block reads are readable, and the one it writes is
writable. -/
def Obligations.ReachedRegistersAllowTheAccess : Prop :=
  (∀ r ∈ usedRegs, (Config.default.access r).readable = true) ∧
    (Config.default.access .config).writable = true

/-- R12, R13: apart from RESET, only a SAMPLE in progress writes the sample buffer, and only the ACCEPT of a
SAMPLE writes the timestamp latch. -/
def Obligations.OnlySampleWritesItsRegisters : Prop :=
  ∀ s t : State, step s = .next t →
    t.trace = s.trace ++ [.reset] ∨
    ((t.sampleBuf = s.sampleBuf ∨ (s.seq = .wait ∧ s.cmdLatch = 0x09000000#32)) ∧
     (t.tsLatch = s.tsLatch ∨ (s.seq = .idle ∧ t.seq = .issue ∧ t.cmdLatch = 0x09000000#32 ∧
       t.trace = s.trace ++ [.accepted 0x09000000#32 t.tsLatch])))

/-- The invariants hold of the machine after reset. -/
def Obligations.InvariantsHoldAfterReset : Prop :=
  Inv State.reset ∧ ResponseShown State.reset ∧ TraceInOrder State.reset

/-- Every step from a state of the invariant answers a next state, and it is one of the invariant: the
machine neither faults nor refuses (R11, R15, R16, R18, R24, R44, R56). -/
def Obligations.EveryStepGoesOnAndKeepsTheInvariant : Prop :=
  ∀ s : State, Inv s → ∃ t, step s = .next t ∧ Inv t

/-- R44: the events at the ports stay in order: one request at a time, each answered before the next, the
response after the last answer, one command after the other. -/
def Obligations.EventsStayInOrder : Prop :=
  ∀ s t : State, TraceInOrder s → step s = .next t → TraceInOrder t

/-- R15: from any IDLE state, the machine's events for a whole command are those of the command run as one
big step that consumes the transport's answers, in as many steps as the events ask for: one for ACCEPT
and two for each request. -/
def Obligations.EventsOfACommandAreThoseOfTheBigStep : Prop :=
  ∀ (s : State) (p : Presented) (cs : List Presented) (events : List PortEvent)
    (left : List Answer),
    s.cfg.legal = true → s.seq = .idle → s.schedule = [] → s.commands = p :: cs →
    bigStep s.cfg p s.answers = some (events, left) →
    ∃ t, Host.Core.run Sys2Proof.core (1 + 2 * requestCount events) s = .next t ∧
      t.seq = .idle ∧ t.respValid = true ∧ t.cfg = s.cfg ∧ t.commands = cs ∧ t.answers = left ∧
      t.schedule = [] ∧ t.trace = s.trace ++ events

/-- R38, R169: with the premise that the transport answers (six answers are enough for any command), every
command, whatever its word, ends with a response within thirteen steps. -/
def Obligations.EveryCommandEndsWhenTheTransportAnswers : Prop :=
  ∀ (s : State) (p : Presented) (cs : List Presented), s.cfg.legal = true → s.seq = .idle →
    s.schedule = [] → s.commands = p :: cs → 6 ≤ s.answers.length →
    ∃ n t, n ≤ 13 ∧ Host.Core.run Sys2Proof.core n s = .next t ∧ t.seq = .idle ∧
      t.respValid = true ∧ t.commands = cs ∧
      ∃ r, currentResponse t.trace = some r ∧ t.respStatus = r.status

/-- R20, one step: two states that agree on the constants, the ports and what the command in progress has
written take the same step, with the same events, and agree again, whatever else they hold. -/
def Obligations.AStepDependsOnLiveStateOnly : Prop :=
  ∀ s t s' : State, Agree s t → step s = .next s' →
    ∃ t' events, step t = .next t' ∧ Agree s' t' ∧
      s'.trace = s.trace ++ events ∧ t'.trace = t.trace ++ events

/-- R20: after any response, with any status, the next commands behave exactly as they would after
reset: whatever an IDLE state holds, its events are those of the reset state with the same constants
and the same things at its ports. -/
def Obligations.NothingCarriesOverToTheNextCommand : Prop :=
  ∀ (s s' : State) (n : Nat), s.seq = .idle → s.pending = none →
    Host.Core.run Sys2Proof.core n s = .next s' →
    ∃ t' events, Host.Core.run Sys2Proof.core n { State.reset with
        cfg := s.cfg
        commands := s.commands
        answers := s.answers
        schedule := s.schedule } = .next t' ∧
      s'.trace = s.trace ++ events ∧ t'.trace = events
end

