-- ==== Sys2Proof/Laws/Codec.lean ====
section
/-! SUPPORT. The arithmetic of the codec: ranges, and what its shared steps answer. -/

namespace Sys2Proof.Machine

/-- The count is the floor of an eighth of the signed raw value (R71). -/
theorem count_eq (raw : Raw) : count raw = raw.toInt / 8 := rfl

/-- The count lies in the signed 13-bit range (R71). -/
theorem count_range (raw : Raw) : -4096 ≤ count raw ∧ count raw ≤ 4095 := by
  have h1 := BitVec.toInt_lt (x := raw)
  have h2 := BitVec.le_toInt (x := raw)
  rw [count_eq]
  omega

/-- The clamp stays in range. -/
theorem sat13_range (i : Int) : -4096 ≤ sat13 i ∧ sat13 i ≤ 4095 := by
  unfold sat13
  omega

/-- The clamp is the identity in its range. -/
theorem sat13_of_range {i : Int} (h : -4096 ≤ i ∧ i ≤ 4095) : sat13 i = i := by
  unfold sat13
  omega

/-- A number in the signed 32-bit range is read back from its pattern. -/
theorem microvolts_toInt {i : Int} (h1 : -2147483648 ≤ i) (h2 : i < 2147483648) :
    (microvolts i).toInt = i := by
  unfold microvolts
  rw [BitVec.toInt_ofInt]
  apply Int.bmod_eq_of_le <;> norm_num <;> omega

/-- A count in range, shifted left by 3, is read back from its 16-bit pattern (R78). -/
theorem shl_toInt {c : Int} (h : -4096 ≤ c ∧ c ≤ 4095) :
    (BitVec.ofInt 16 (shl c 3)).toInt = 8 * c := by
  rw [BitVec.toInt_ofInt]
  unfold shl
  rw [Int.bmod_eq_of_le] <;> norm_num <;> omega

/-- A legal scale constant keeps every decode inside 32 bits (R8). -/
theorem decodeVolts_range {lsb : Nat} (h : lsbInRange lsb = true) (raw : Raw) :
    -2147483648 ≤ decodeVolts lsb raw ∧ decodeVolts lsb raw < 2147483648 := by
  simp [lsbInRange] at h
  obtain ⟨c1, c2⟩ := count_range raw
  unfold decodeVolts
  have hl1 : (1 : Int) ≤ lsb := by exact_mod_cast h.1
  have hl2 : (lsb : Int) ≤ 524287 := by exact_mod_cast h.2
  constructor <;> nlinarith

end Sys2Proof.Machine
end

