-- ==== Sys2Proof/Laws/Decode.lean ====
section
/-! SUPPORT. The decoder: what it answers is a well-formed instruction of the right format. -/

namespace Sys2Proof

theorem withoutOperand_ok {w : Word} {i j : Instr} (h : withoutOperand w i = .ok j) :
    field w 0 16 = 0#16 ∧ j = i := by
  unfold withoutOperand at h
  split at h
  · next hz => exact ⟨hz, by simpa using h.symm⟩
  · cases h

/-- A command word decodes to a command, never to a codec function (R50). -/
theorem decodeCmd_isCommand {w : Word} {i : Instr} (h : decodeCmd w = .ok i) :
    Safety.isCommand i = true := by
  unfold decodeCmd at h
  split at h
  · cases h
  · next c _ =>
    split at h
    · cases c <;> simp only [commandInstr] at h
      case rdbus => cases h; rfl
      case rdshunt => cases h; rfl
      case config =>
        split at h
        · cases h
        · cases h; rfl
      all_goals (obtain ⟨-, rfl⟩ := withoutOperand_ok h; rfl)
    · cases h

/-- A codec word decodes to a codec function (R55). -/
theorem decodeCodec_isCommand (p : BitVec 34) : Safety.isCommand (decodeCodec p) = false := by
  unfold decodeCodec
  split <;> rfl

/-- What a command word decodes to is well formed. -/
theorem decodeCmd_wellFormed {w : Word} {i : Instr} (h : decodeCmd w = .ok i) :
    i.wellFormed = true := by
  unfold decodeCmd at h
  split at h
  · cases h
  · next c _ =>
    split at h
    · cases c <;> simp only [commandInstr] at h
      case rdbus =>
        cases h
        simp only [Instr.wellFormed, channelNumeral, decide_eq_true_eq]
        exact (field w 0 16).isLt
      case rdshunt =>
        cases h
        simp only [Instr.wellFormed, channelNumeral, decide_eq_true_eq]
        exact (field w 0 16).isLt
      case config =>
        split at h
        · cases h
        · cases h; rfl
      all_goals (obtain ⟨-, rfl⟩ := withoutOperand_ok h; rfl)
    · cases h

/-- What a codec word decodes to is well formed. -/
theorem decodeCodec_wellFormed (p : BitVec 34) : (decodeCodec p).wellFormed = true := by
  have signed (x : Word) : signedMicrovolts x.toInt = true := by
    have h1 := BitVec.toInt_lt (x := x)
    have h2 := BitVec.le_toInt (x := x)
    simp [signedMicrovolts]
    omega
  unfold decodeCodec
  split
  · rfl
  · rfl
  · exact signed _
  · exact signed _

/-- The fields of a command word. -/
theorem cmdWord_opcode (opcode : BitVec 8) (operand : Raw) :
    field (cmdWord opcode operand) 24 8 = opcode := by
  apply BitVec.eq_of_getLsbD_eq
  intro k hk
  simp only [cmdWord, field, BitVec.getLsbD_extractLsb', BitVec.getLsbD_append]
  interval_cases k <;> simp

theorem cmdWord_reserved (opcode : BitVec 8) (operand : Raw) :
    field (cmdWord opcode operand) 16 8 = 0#8 := by
  apply BitVec.eq_of_getLsbD_eq
  intro k hk
  simp only [cmdWord, field, BitVec.getLsbD_extractLsb', BitVec.getLsbD_append]
  interval_cases k <;> simp

theorem cmdWord_operand (opcode : BitVec 8) (operand : Raw) :
    field (cmdWord opcode operand) 0 16 = operand := by
  apply BitVec.eq_of_getLsbD_eq
  intro k hk
  simp only [cmdWord, field, BitVec.getLsbD_extractLsb', BitVec.getLsbD_append]
  interval_cases k <;> simp

/-- A command word with a zero reserved field is put together again from its fields. -/
theorem cmdWord_of_fields {w : Word} (h : field w 16 8 = 0#8) :
    cmdWord (field w 24 8) (field w 0 16) = w := by
  apply BitVec.eq_of_getLsbD_eq
  intro k hk
  have back : cmdWord (field w 24 8) (field w 0 16) =
      (field w 24 8 ++ field w 16 8 ++ field w 0 16 : Word) := by rw [h]; rfl
  rw [back]
  simp only [field, BitVec.getLsbD_extractLsb', BitVec.getLsbD_append]
  interval_cases k <;> simp

end Sys2Proof
end

