-- ==== Sys2Proof/Laws/State.lean ====
section
/-! SUPPORT. One lemma per field per update of the state, so that no proof unfolds a record update. -/

namespace Sys2Proof.Machine

@[simp] theorem respondOk_eq_deliver (d : OkData) (s : State) : respondOk d s = deliver (.ok d) s := rfl

@[simp] theorem raise_eq_deliver (k : ErrorKind) (s : State) : raise k s = deliver (.error k) s := rfl

@[simp] theorem noCapture_eq (raw : Raw) (s : State) : noCapture raw s = s := rfl

/-! `deliver`. -/

@[simp] theorem deliver_cfg (r : Response) (s : State) :
    (deliver r s).cfg = s.cfg := rfl
@[simp] theorem deliver_seq (r : Response) (s : State) :
    (deliver r s).seq = .idle := rfl
@[simp] theorem deliver_stepCtr (r : Response) (s : State) :
    (deliver r s).stepCtr = s.stepCtr := rfl
@[simp] theorem deliver_cmdLatch (r : Response) (s : State) :
    (deliver r s).cmdLatch = s.cmdLatch := rfl
@[simp] theorem deliver_tsLatch (r : Response) (s : State) :
    (deliver r s).tsLatch = s.tsLatch := rfl
@[simp] theorem deliver_sampleBuf (r : Response) (s : State) :
    (deliver r s).sampleBuf = s.sampleBuf := rfl
@[simp] theorem deliver_respValid (r : Response) (s : State) :
    (deliver r s).respValid = true := rfl
@[simp] theorem deliver_respStatus (r : Response) (s : State) :
    (deliver r s).respStatus = r.status := rfl
@[simp] theorem deliver_respErr (r : Response) (s : State) :
    (deliver r s).respErr = respErrOf s.cfg s.draws r := rfl
@[simp] theorem deliver_respData (r : Response) (s : State) :
    (deliver r s).respData = respDataOf s.draws r := rfl
@[simp] theorem deliver_respSample (r : Response) (s : State) :
    (deliver r s).respSample = respSampleOf s.cfg s.draws r := rfl
@[simp] theorem deliver_codecOp (r : Response) (s : State) :
    (deliver r s).codecOp = s.codecOp := rfl
@[simp] theorem deliver_codecIn (r : Response) (s : State) :
    (deliver r s).codecIn = s.codecIn := rfl
@[simp] theorem deliver_codecOut (r : Response) (s : State) :
    (deliver r s).codecOut = s.codecOut := rfl
@[simp] theorem deliver_pending (r : Response) (s : State) :
    (deliver r s).pending = s.pending := rfl
@[simp] theorem deliver_commands (r : Response) (s : State) :
    (deliver r s).commands = s.commands := rfl
@[simp] theorem deliver_answers (r : Response) (s : State) :
    (deliver r s).answers = s.answers := rfl
@[simp] theorem deliver_schedule (r : Response) (s : State) :
    (deliver r s).schedule = s.schedule := rfl
@[simp] theorem deliver_trace (r : Response) (s : State) :
    (deliver r s).trace = s.trace ++ [.responded r] := rfl
@[simp] theorem deliver_draws (r : Response) (s : State) :
    (deliver r s).draws = s.draws + 1 := rfl

/-! `openCommand`. -/

@[simp] theorem openCommand_cfg (p : Presented) (rest : List Presented) (s : State) :
    (openCommand p rest s).cfg = s.cfg := rfl
@[simp] theorem openCommand_seq (p : Presented) (rest : List Presented) (s : State) :
    (openCommand p rest s).seq = s.seq := rfl
@[simp] theorem openCommand_stepCtr (p : Presented) (rest : List Presented) (s : State) :
    (openCommand p rest s).stepCtr = s.stepCtr := rfl
@[simp] theorem openCommand_cmdLatch (p : Presented) (rest : List Presented) (s : State) :
    (openCommand p rest s).cmdLatch = s.cmdLatch := rfl
@[simp] theorem openCommand_tsLatch (p : Presented) (rest : List Presented) (s : State) :
    (openCommand p rest s).tsLatch = s.tsLatch := rfl
@[simp] theorem openCommand_sampleBuf (p : Presented) (rest : List Presented) (s : State) :
    (openCommand p rest s).sampleBuf = s.sampleBuf := rfl
@[simp] theorem openCommand_respValid (p : Presented) (rest : List Presented) (s : State) :
    (openCommand p rest s).respValid = false := rfl
@[simp] theorem openCommand_respStatus (p : Presented) (rest : List Presented) (s : State) :
    (openCommand p rest s).respStatus = s.respStatus := rfl
@[simp] theorem openCommand_respErr (p : Presented) (rest : List Presented) (s : State) :
    (openCommand p rest s).respErr = s.respErr := rfl
@[simp] theorem openCommand_respData (p : Presented) (rest : List Presented) (s : State) :
    (openCommand p rest s).respData = s.respData := rfl
@[simp] theorem openCommand_respSample (p : Presented) (rest : List Presented) (s : State) :
    (openCommand p rest s).respSample = s.respSample := rfl
@[simp] theorem openCommand_codecOp (p : Presented) (rest : List Presented) (s : State) :
    (openCommand p rest s).codecOp = s.codecOp := rfl
@[simp] theorem openCommand_codecIn (p : Presented) (rest : List Presented) (s : State) :
    (openCommand p rest s).codecIn = s.codecIn := rfl
@[simp] theorem openCommand_codecOut (p : Presented) (rest : List Presented) (s : State) :
    (openCommand p rest s).codecOut = s.codecOut := rfl
@[simp] theorem openCommand_pending (p : Presented) (rest : List Presented) (s : State) :
    (openCommand p rest s).pending = s.pending := rfl
@[simp] theorem openCommand_commands (p : Presented) (rest : List Presented) (s : State) :
    (openCommand p rest s).commands = rest := rfl
@[simp] theorem openCommand_answers (p : Presented) (rest : List Presented) (s : State) :
    (openCommand p rest s).answers = s.answers := rfl
@[simp] theorem openCommand_schedule (p : Presented) (rest : List Presented) (s : State) :
    (openCommand p rest s).schedule = s.schedule := rfl
@[simp] theorem openCommand_trace (p : Presented) (rest : List Presented) (s : State) :
    (openCommand p rest s).trace = s.trace ++ [.accepted p.word (tsPort s.cfg p.ts)] := rfl
@[simp] theorem openCommand_draws (p : Presented) (rest : List Presented) (s : State) :
    (openCommand p rest s).draws = s.draws := rfl

/-! `startCommand`. -/

@[simp] theorem startCommand_cfg (p : Presented) (latchTs : Bool) (s : State) :
    (startCommand p latchTs s).cfg = s.cfg := rfl
@[simp] theorem startCommand_seq (p : Presented) (latchTs : Bool) (s : State) :
    (startCommand p latchTs s).seq = .issue := rfl
@[simp] theorem startCommand_stepCtr (p : Presented) (latchTs : Bool) (s : State) :
    (startCommand p latchTs s).stepCtr = 0#3 := rfl
@[simp] theorem startCommand_cmdLatch (p : Presented) (latchTs : Bool) (s : State) :
    (startCommand p latchTs s).cmdLatch = p.word := rfl
@[simp] theorem startCommand_tsLatch (p : Presented) (latchTs : Bool) (s : State) :
    (startCommand p latchTs s).tsLatch = (if latchTs then tsPort s.cfg p.ts else s.tsLatch) := rfl
@[simp] theorem startCommand_sampleBuf (p : Presented) (latchTs : Bool) (s : State) :
    (startCommand p latchTs s).sampleBuf = s.sampleBuf := rfl
@[simp] theorem startCommand_respValid (p : Presented) (latchTs : Bool) (s : State) :
    (startCommand p latchTs s).respValid = s.respValid := rfl
@[simp] theorem startCommand_respStatus (p : Presented) (latchTs : Bool) (s : State) :
    (startCommand p latchTs s).respStatus = s.respStatus := rfl
@[simp] theorem startCommand_respErr (p : Presented) (latchTs : Bool) (s : State) :
    (startCommand p latchTs s).respErr = s.respErr := rfl
@[simp] theorem startCommand_respData (p : Presented) (latchTs : Bool) (s : State) :
    (startCommand p latchTs s).respData = s.respData := rfl
@[simp] theorem startCommand_respSample (p : Presented) (latchTs : Bool) (s : State) :
    (startCommand p latchTs s).respSample = s.respSample := rfl
@[simp] theorem startCommand_codecOp (p : Presented) (latchTs : Bool) (s : State) :
    (startCommand p latchTs s).codecOp = s.codecOp := rfl
@[simp] theorem startCommand_codecIn (p : Presented) (latchTs : Bool) (s : State) :
    (startCommand p latchTs s).codecIn = s.codecIn := rfl
@[simp] theorem startCommand_codecOut (p : Presented) (latchTs : Bool) (s : State) :
    (startCommand p latchTs s).codecOut = s.codecOut := rfl
@[simp] theorem startCommand_pending (p : Presented) (latchTs : Bool) (s : State) :
    (startCommand p latchTs s).pending = s.pending := rfl
@[simp] theorem startCommand_commands (p : Presented) (latchTs : Bool) (s : State) :
    (startCommand p latchTs s).commands = s.commands := rfl
@[simp] theorem startCommand_answers (p : Presented) (latchTs : Bool) (s : State) :
    (startCommand p latchTs s).answers = s.answers := rfl
@[simp] theorem startCommand_schedule (p : Presented) (latchTs : Bool) (s : State) :
    (startCommand p latchTs s).schedule = s.schedule := rfl
@[simp] theorem startCommand_trace (p : Presented) (latchTs : Bool) (s : State) :
    (startCommand p latchTs s).trace = s.trace := rfl
@[simp] theorem startCommand_draws (p : Presented) (latchTs : Bool) (s : State) :
    (startCommand p latchTs s).draws = s.draws := rfl

/-! `takeAnswer`. -/

@[simp] theorem takeAnswer_cfg (a : Answer) (rest : List Answer) (s : State) :
    (takeAnswer a rest s).cfg = s.cfg := rfl
@[simp] theorem takeAnswer_seq (a : Answer) (rest : List Answer) (s : State) :
    (takeAnswer a rest s).seq = s.seq := rfl
@[simp] theorem takeAnswer_stepCtr (a : Answer) (rest : List Answer) (s : State) :
    (takeAnswer a rest s).stepCtr = s.stepCtr := rfl
@[simp] theorem takeAnswer_cmdLatch (a : Answer) (rest : List Answer) (s : State) :
    (takeAnswer a rest s).cmdLatch = s.cmdLatch := rfl
@[simp] theorem takeAnswer_tsLatch (a : Answer) (rest : List Answer) (s : State) :
    (takeAnswer a rest s).tsLatch = s.tsLatch := rfl
@[simp] theorem takeAnswer_sampleBuf (a : Answer) (rest : List Answer) (s : State) :
    (takeAnswer a rest s).sampleBuf = s.sampleBuf := rfl
@[simp] theorem takeAnswer_respValid (a : Answer) (rest : List Answer) (s : State) :
    (takeAnswer a rest s).respValid = s.respValid := rfl
@[simp] theorem takeAnswer_respStatus (a : Answer) (rest : List Answer) (s : State) :
    (takeAnswer a rest s).respStatus = s.respStatus := rfl
@[simp] theorem takeAnswer_respErr (a : Answer) (rest : List Answer) (s : State) :
    (takeAnswer a rest s).respErr = s.respErr := rfl
@[simp] theorem takeAnswer_respData (a : Answer) (rest : List Answer) (s : State) :
    (takeAnswer a rest s).respData = s.respData := rfl
@[simp] theorem takeAnswer_respSample (a : Answer) (rest : List Answer) (s : State) :
    (takeAnswer a rest s).respSample = s.respSample := rfl
@[simp] theorem takeAnswer_codecOp (a : Answer) (rest : List Answer) (s : State) :
    (takeAnswer a rest s).codecOp = s.codecOp := rfl
@[simp] theorem takeAnswer_codecIn (a : Answer) (rest : List Answer) (s : State) :
    (takeAnswer a rest s).codecIn = s.codecIn := rfl
@[simp] theorem takeAnswer_codecOut (a : Answer) (rest : List Answer) (s : State) :
    (takeAnswer a rest s).codecOut = s.codecOut := rfl
@[simp] theorem takeAnswer_pending (a : Answer) (rest : List Answer) (s : State) :
    (takeAnswer a rest s).pending = none := rfl
@[simp] theorem takeAnswer_commands (a : Answer) (rest : List Answer) (s : State) :
    (takeAnswer a rest s).commands = s.commands := rfl
@[simp] theorem takeAnswer_answers (a : Answer) (rest : List Answer) (s : State) :
    (takeAnswer a rest s).answers = rest := rfl
@[simp] theorem takeAnswer_schedule (a : Answer) (rest : List Answer) (s : State) :
    (takeAnswer a rest s).schedule = s.schedule := rfl
@[simp] theorem takeAnswer_trace (a : Answer) (rest : List Answer) (s : State) :
    (takeAnswer a rest s).trace = s.trace ++ [.answered (answerPort s.cfg a)] := rfl
@[simp] theorem takeAnswer_draws (a : Answer) (rest : List Answer) (s : State) :
    (takeAnswer a rest s).draws = s.draws := rfl

/-! `driveCodec`. -/

@[simp] theorem driveCodec_cfg (op : BitVec 2) (arg out : Word) (s : State) :
    (driveCodec op arg out s).cfg = s.cfg := rfl
@[simp] theorem driveCodec_seq (op : BitVec 2) (arg out : Word) (s : State) :
    (driveCodec op arg out s).seq = s.seq := rfl
@[simp] theorem driveCodec_stepCtr (op : BitVec 2) (arg out : Word) (s : State) :
    (driveCodec op arg out s).stepCtr = s.stepCtr := rfl
@[simp] theorem driveCodec_cmdLatch (op : BitVec 2) (arg out : Word) (s : State) :
    (driveCodec op arg out s).cmdLatch = s.cmdLatch := rfl
@[simp] theorem driveCodec_tsLatch (op : BitVec 2) (arg out : Word) (s : State) :
    (driveCodec op arg out s).tsLatch = s.tsLatch := rfl
@[simp] theorem driveCodec_sampleBuf (op : BitVec 2) (arg out : Word) (s : State) :
    (driveCodec op arg out s).sampleBuf = s.sampleBuf := rfl
@[simp] theorem driveCodec_respValid (op : BitVec 2) (arg out : Word) (s : State) :
    (driveCodec op arg out s).respValid = s.respValid := rfl
@[simp] theorem driveCodec_respStatus (op : BitVec 2) (arg out : Word) (s : State) :
    (driveCodec op arg out s).respStatus = s.respStatus := rfl
@[simp] theorem driveCodec_respErr (op : BitVec 2) (arg out : Word) (s : State) :
    (driveCodec op arg out s).respErr = s.respErr := rfl
@[simp] theorem driveCodec_respData (op : BitVec 2) (arg out : Word) (s : State) :
    (driveCodec op arg out s).respData = s.respData := rfl
@[simp] theorem driveCodec_respSample (op : BitVec 2) (arg out : Word) (s : State) :
    (driveCodec op arg out s).respSample = s.respSample := rfl
@[simp] theorem driveCodec_codecOp (op : BitVec 2) (arg out : Word) (s : State) :
    (driveCodec op arg out s).codecOp = op := rfl
@[simp] theorem driveCodec_codecIn (op : BitVec 2) (arg out : Word) (s : State) :
    (driveCodec op arg out s).codecIn = arg := rfl
@[simp] theorem driveCodec_codecOut (op : BitVec 2) (arg out : Word) (s : State) :
    (driveCodec op arg out s).codecOut = out := rfl
@[simp] theorem driveCodec_pending (op : BitVec 2) (arg out : Word) (s : State) :
    (driveCodec op arg out s).pending = s.pending := rfl
@[simp] theorem driveCodec_commands (op : BitVec 2) (arg out : Word) (s : State) :
    (driveCodec op arg out s).commands = s.commands := rfl
@[simp] theorem driveCodec_answers (op : BitVec 2) (arg out : Word) (s : State) :
    (driveCodec op arg out s).answers = s.answers := rfl
@[simp] theorem driveCodec_schedule (op : BitVec 2) (arg out : Word) (s : State) :
    (driveCodec op arg out s).schedule = s.schedule := rfl
@[simp] theorem driveCodec_trace (op : BitVec 2) (arg out : Word) (s : State) :
    (driveCodec op arg out s).trace = s.trace ++ [.codec op arg out] := rfl
@[simp] theorem driveCodec_draws (op : BitVec 2) (arg out : Word) (s : State) :
    (driveCodec op arg out s).draws = s.draws := rfl

/-! `sampleCapture`. -/

@[simp] theorem sampleCapture_cfg (raw : Raw) (s : State) :
    (sampleCapture raw s).cfg = s.cfg := rfl
@[simp] theorem sampleCapture_seq (raw : Raw) (s : State) :
    (sampleCapture raw s).seq = s.seq := rfl
@[simp] theorem sampleCapture_stepCtr (raw : Raw) (s : State) :
    (sampleCapture raw s).stepCtr = s.stepCtr := rfl
@[simp] theorem sampleCapture_cmdLatch (raw : Raw) (s : State) :
    (sampleCapture raw s).cmdLatch = s.cmdLatch := rfl
@[simp] theorem sampleCapture_tsLatch (raw : Raw) (s : State) :
    (sampleCapture raw s).tsLatch = s.tsLatch := rfl
@[simp] theorem sampleCapture_sampleBuf (raw : Raw) (s : State) :
    (sampleCapture raw s).sampleBuf = s.sampleBuf.setSlot s.stepCtr.toNat (sampleDecode s.cfg s.stepCtr.toNat raw) := rfl
@[simp] theorem sampleCapture_respValid (raw : Raw) (s : State) :
    (sampleCapture raw s).respValid = s.respValid := rfl
@[simp] theorem sampleCapture_respStatus (raw : Raw) (s : State) :
    (sampleCapture raw s).respStatus = s.respStatus := rfl
@[simp] theorem sampleCapture_respErr (raw : Raw) (s : State) :
    (sampleCapture raw s).respErr = s.respErr := rfl
@[simp] theorem sampleCapture_respData (raw : Raw) (s : State) :
    (sampleCapture raw s).respData = s.respData := rfl
@[simp] theorem sampleCapture_respSample (raw : Raw) (s : State) :
    (sampleCapture raw s).respSample = s.respSample := rfl
@[simp] theorem sampleCapture_codecOp (raw : Raw) (s : State) :
    (sampleCapture raw s).codecOp = s.codecOp := rfl
@[simp] theorem sampleCapture_codecIn (raw : Raw) (s : State) :
    (sampleCapture raw s).codecIn = s.codecIn := rfl
@[simp] theorem sampleCapture_codecOut (raw : Raw) (s : State) :
    (sampleCapture raw s).codecOut = s.codecOut := rfl
@[simp] theorem sampleCapture_pending (raw : Raw) (s : State) :
    (sampleCapture raw s).pending = s.pending := rfl
@[simp] theorem sampleCapture_commands (raw : Raw) (s : State) :
    (sampleCapture raw s).commands = s.commands := rfl
@[simp] theorem sampleCapture_answers (raw : Raw) (s : State) :
    (sampleCapture raw s).answers = s.answers := rfl
@[simp] theorem sampleCapture_schedule (raw : Raw) (s : State) :
    (sampleCapture raw s).schedule = s.schedule := rfl
@[simp] theorem sampleCapture_trace (raw : Raw) (s : State) :
    (sampleCapture raw s).trace = s.trace := rfl
@[simp] theorem sampleCapture_draws (raw : Raw) (s : State) :
    (sampleCapture raw s).draws = s.draws := rfl

/-! `abandonRequest` and `resetEvent`: what they keep, and what the rules give them (R160 to R162). -/

@[simp] theorem abandonRequest_cfg (s : State) : (abandonRequest s).cfg = s.cfg := by
  unfold abandonRequest
  split <;> rfl
@[simp] theorem abandonRequest_seq (s : State) : (abandonRequest s).seq = s.seq := by
  unfold abandonRequest
  split <;> rfl
@[simp] theorem abandonRequest_stepCtr (s : State) : (abandonRequest s).stepCtr = s.stepCtr := by
  unfold abandonRequest
  split <;> rfl
@[simp] theorem abandonRequest_cmdLatch (s : State) : (abandonRequest s).cmdLatch = s.cmdLatch := by
  unfold abandonRequest
  split <;> rfl
@[simp] theorem abandonRequest_tsLatch (s : State) : (abandonRequest s).tsLatch = s.tsLatch := by
  unfold abandonRequest
  split <;> rfl
@[simp] theorem abandonRequest_sampleBuf (s : State) : (abandonRequest s).sampleBuf = s.sampleBuf := by
  unfold abandonRequest
  split <;> rfl
@[simp] theorem abandonRequest_respValid (s : State) : (abandonRequest s).respValid = s.respValid := by
  unfold abandonRequest
  split <;> rfl
@[simp] theorem abandonRequest_respStatus (s : State) : (abandonRequest s).respStatus = s.respStatus := by
  unfold abandonRequest
  split <;> rfl
@[simp] theorem abandonRequest_respErr (s : State) : (abandonRequest s).respErr = s.respErr := by
  unfold abandonRequest
  split <;> rfl
@[simp] theorem abandonRequest_respData (s : State) : (abandonRequest s).respData = s.respData := by
  unfold abandonRequest
  split <;> rfl
@[simp] theorem abandonRequest_respSample (s : State) : (abandonRequest s).respSample = s.respSample := by
  unfold abandonRequest
  split <;> rfl
@[simp] theorem abandonRequest_codecOp (s : State) : (abandonRequest s).codecOp = s.codecOp := by
  unfold abandonRequest
  split <;> rfl
@[simp] theorem abandonRequest_codecIn (s : State) : (abandonRequest s).codecIn = s.codecIn := by
  unfold abandonRequest
  split <;> rfl
@[simp] theorem abandonRequest_codecOut (s : State) : (abandonRequest s).codecOut = s.codecOut := by
  unfold abandonRequest
  split <;> rfl
@[simp] theorem abandonRequest_commands (s : State) : (abandonRequest s).commands = s.commands := by
  unfold abandonRequest
  split <;> rfl
@[simp] theorem abandonRequest_schedule (s : State) : (abandonRequest s).schedule = s.schedule := by
  unfold abandonRequest
  split <;> rfl
@[simp] theorem abandonRequest_trace (s : State) : (abandonRequest s).trace = s.trace := by
  unfold abandonRequest
  split <;> rfl
@[simp] theorem abandonRequest_draws (s : State) : (abandonRequest s).draws = s.draws := by
  unfold abandonRequest
  split <;> rfl
@[simp] theorem abandonRequest_pending (s : State) : (abandonRequest s).pending = none := by
  unfold abandonRequest
  split
  · assumption
  · rfl

theorem abandonRequest_answers (s : State) :
    (abandonRequest s).answers = s.answers.drop (if s.pending.isSome then 1 else 0) := by
  unfold abandonRequest
  split <;> simp_all

@[simp] theorem resetEvent_seq (s : State) : (resetEvent s).seq = .idle := rfl
@[simp] theorem resetEvent_respValid (s : State) : (resetEvent s).respValid = false := rfl
@[simp] theorem resetEvent_trace (s : State) : (resetEvent s).trace = s.trace ++ [.reset] := rfl
@[simp] theorem resetEvent_draws (s : State) : (resetEvent s).draws = s.draws + 1 := rfl
@[simp] theorem resetEvent_pending (s : State) : (resetEvent s).pending = none :=
  abandonRequest_pending s
theorem resetEvent_answers (s : State) :
    (resetEvent s).answers = s.answers.drop (if s.pending.isSome then 1 else 0) :=
  abandonRequest_answers s
@[simp] theorem resetEvent_cfg (s : State) : (resetEvent s).cfg = s.cfg :=
  abandonRequest_cfg s
@[simp] theorem resetEvent_commands (s : State) : (resetEvent s).commands = s.commands :=
  abandonRequest_commands s
@[simp] theorem resetEvent_schedule (s : State) : (resetEvent s).schedule = s.schedule :=
  abandonRequest_schedule s
@[simp] theorem resetEvent_codecOp (s : State) : (resetEvent s).codecOp = s.codecOp :=
  abandonRequest_codecOp s
@[simp] theorem resetEvent_codecIn (s : State) : (resetEvent s).codecIn = s.codecIn :=
  abandonRequest_codecIn s
@[simp] theorem resetEvent_codecOut (s : State) : (resetEvent s).codecOut = s.codecOut :=
  abandonRequest_codecOut s

end Sys2Proof.Machine
end

