-- ==== Sys2Proof/Laws/Ops.lean ====
section
/-! SUPPORT. One lemma per shared operation and per event: what it answers, and everything it can do. -/

namespace Sys2Proof.Machine

/-! The events of a command, forwards: what they answer. -/

theorem commandEvent_idle {prog check latchTs capture finish} {s : State} (h : s.seq = .idle) :
    commandEvent prog check latchTs capture finish s = acceptEvent check latchTs s := by
  simp [commandEvent, h]

theorem commandEvent_issue {prog check latchTs capture finish} {s : State} (h : s.seq = .issue) :
    commandEvent prog check latchTs capture finish s = issueEvent prog s := by
  simp [commandEvent, h]

theorem commandEvent_wait {prog check latchTs capture finish} {s : State} (h : s.seq = .wait) :
    commandEvent prog check latchTs capture finish s = answerEvent prog capture finish s := by
  simp [commandEvent, h]

theorem acceptEvent_none {check latchTs} {s : State} (h : s.commands = []) :
    acceptEvent check latchTs s = .next s := by
  simp [acceptEvent, h]

theorem acceptEvent_start {latchTs} {s : State} {p rest} (h : s.commands = p :: rest) :
    acceptEvent none latchTs s = .next (startCommand p latchTs (openCommand p rest s)) := by
  simp [acceptEvent, h]

theorem acceptEvent_raise {k latchTs} {s : State} {p rest} (h : s.commands = p :: rest) :
    acceptEvent (some k) latchTs s = .next (raise k (openCommand p rest s)) := by
  simp [acceptEvent, h]

theorem issueEvent_sends {prog : List Transaction} {s : State} {t}
    (h : prog[s.stepCtr.toNat]? = some t) :
    issueEvent prog s = .next { s with
      pending := some (requestOf s.cfg t)
      seq := .wait
      trace := s.trace ++ [.requested (requestOf s.cfg t)] } := by
  simp [issueEvent, h]

theorem answerEvent_waits {prog : List Transaction} {capture finish} {s : State} {t}
    (h : prog[s.stepCtr.toNat]? = some t) (ha : s.answers = []) :
    answerEvent prog capture finish s = .next s := by
  simp [answerEvent, h, ha]

theorem answerEvent_err {prog : List Transaction} {capture finish} {s : State} {t code rest}
    (h : prog[s.stepCtr.toNat]? = some t) (ha : s.answers = .err code :: rest) :
    answerEvent prog capture finish s =
      .next (raise (.busError (tePort s.cfg code)) (takeAnswer (.err code) rest s)) := by
  simp [answerEvent, h, ha]

theorem answerEvent_ok {prog : List Transaction} {capture finish} {s : State} {t byte0 byte1 rest}
    (h : prog[s.stepCtr.toNat]? = some t) (ha : s.answers = .ok byte0 byte1 :: rest) :
    answerEvent prog capture finish s =
      .next (answerOk prog capture finish (rawOfBytes byte0 byte1)
        (takeAnswer (.ok byte0 byte1) rest s)) := by
  simp [answerEvent, h, ha]

/-! The events backwards: the cases of a next state. -/

/-- ACCEPT: a wait, an error, or a start. -/
theorem acceptEvent_cases {check latchTs} {s t : State} (h : acceptEvent check latchTs s = .next t) :
    (s.commands = [] ∧ t = s) ∨
    (∃ p rest k, s.commands = p :: rest ∧ check = some k ∧ t = raise k (openCommand p rest s)) ∨
    (∃ p rest, s.commands = p :: rest ∧ check = none ∧
      t = startCommand p latchTs (openCommand p rest s)) := by
  unfold acceptEvent at h
  split at h
  · next hc => exact .inl ⟨hc, by simpa using h.symm⟩
  · next p rest hc =>
    split at h
    · next k => exact .inr (.inl ⟨p, rest, k, hc, rfl, by simpa using h.symm⟩)
    · exact .inr (.inr ⟨p, rest, hc, rfl, by simpa using h.symm⟩)

/-- ISSUE: one request of the micro-sequence. -/
theorem issueEvent_cases {prog : List Transaction} {s t : State} (h : issueEvent prog s = .next t) :
    ∃ x, prog[s.stepCtr.toNat]? = some x ∧ t = { s with
      pending := some (requestOf s.cfg x)
      seq := .wait
      trace := s.trace ++ [.requested (requestOf s.cfg x)] } := by
  unfold issueEvent at h
  split at h
  · cases h
  · next x hx => exact ⟨x, hx, by simpa using h.symm⟩

/-- ANSWER: a wait, a bus error, the next step, or the response. -/
theorem answerEvent_cases {prog : List Transaction} {capture finish} {s t : State}
    (h : answerEvent prog capture finish s = .next t) :
    ∃ x, prog[s.stepCtr.toNat]? = some x ∧
      ((s.answers = [] ∧ t = s) ∨
       (∃ code rest, s.answers = .err code :: rest ∧
          t = raise (.busError (tePort s.cfg code)) (takeAnswer (.err code) rest s)) ∨
       (∃ byte0 byte1 rest, s.answers = .ok byte0 byte1 :: rest ∧
          t = answerOk prog capture finish (rawOfBytes byte0 byte1)
            (takeAnswer (.ok byte0 byte1) rest s))) := by
  unfold answerEvent at h
  split at h
  · cases h
  · next x hx =>
    refine ⟨x, hx, ?_⟩
    split at h
    · next ha => exact .inl ⟨ha, by simpa using h.symm⟩
    · next code rest ha => exact .inr (.inl ⟨code, rest, ha, by simpa using h.symm⟩)
    · next byte0 byte1 rest ha =>
      exact .inr (.inr ⟨byte0, byte1, rest, ha, by simpa using h.symm⟩)

theorem answerOk_last {prog : List Transaction} {capture finish raw} {s : State}
    (h : s.stepCtr.toNat + 1 = prog.length) :
    answerOk prog capture finish raw s =
      respondOk (finish raw (capture raw s)) (capture raw s) := by
  simp [answerOk, h]

theorem answerOk_more {prog : List Transaction} {capture finish raw} {s : State}
    (h : s.stepCtr.toNat + 1 ≠ prog.length) :
    answerOk prog capture finish raw s =
      { capture raw s with stepCtr := s.stepCtr + 1#3, seq := .issue } := by
  simp [answerOk, h]

/-! The meanings of the commands as one event each, for the micro-sequence of the rules. -/

/-- The operand test of a command as ACCEPT sees it (R52 (5)). -/
def checkOf (i : Instr) : Option ErrorKind :=
  if Safety.operandOk i then none else some .invalidChannel

/-- The capture of a command: SAMPLE keeps the decoded value, the others nothing (R12). -/
def captureOf (i : Instr) : Raw → State → State :=
  match i with
  | .sample => sampleCapture
  | _ => noCapture

/-- The data of a command from the raw value of its last step and the state after the capture. -/
def finishOf (i : Instr) (raw : Raw) (s : State) : OkData :=
  match i with
  | .sample => .sample ⟨s.tsLatch, s.sampleBuf⟩
  | i => Safety.resultOf s.cfg s.tsLatch [raw] i

theorem validChannel_cases {ch : Nat} (h : validChannel ch = true) : ch = 1 ∨ ch = 2 ∨ ch = 3 := by
  simpa [validChannel] using h

theorem busReg_program (c : Config) (ch : Nat) :
    readProgram (busReg ch) = Safety.program c (.rdbus ch) := by
  match ch with
  | 0 => rfl
  | 1 => rfl
  | 2 => rfl
  | 3 => rfl
  | _ + 4 => rfl

theorem shuntReg_program (c : Config) (ch : Nat) :
    readProgram (shuntReg ch) = Safety.program c (.rdshunt ch) := by
  match ch with
  | 0 => rfl
  | 1 => rfl
  | 2 => rfl
  | 3 => rfl
  | _ + 4 => rfl

/-- Every command's meaning is one event of the micro-sequence that the rules give it. -/
theorem exec_command {i : Instr} (h : Safety.isCommand i = true) (s : State) :
    exec i s = commandEvent (Safety.program s.cfg i) (checkOf i) (decide (i = .sample))
      (captureOf i) (finishOf i) s := by
  cases i with
  | rdbus ch =>
    simp only [exec, execRdbus, readEvent, busReg_program s.cfg ch, checkOf, Safety.operandOk, channelCheck]
    rfl
  | rdshunt ch =>
    simp only [exec, execRdshunt, readEvent, shuntReg_program s.cfg ch, checkOf, Safety.operandOk, channelCheck]
    rfl
  | config _ => rfl
  | defcfg => rfl
  | rdmfr => rfl
  | rddie => rfl
  | rdcfg => rfl
  | rdmask => rfl
  | sample => rfl
  | decbus _ _ => simp [Safety.isCommand] at h
  | decshunt _ _ => simp [Safety.isCommand] at h
  | encbus _ => simp [Safety.isCommand] at h
  | encshunt _ => simp [Safety.isCommand] at h

/-- A codec function answers the state with the codec port driven, and nothing else. -/
theorem exec_codec {i : Instr} (h : Safety.isCommand i = false) (s : State) :
    ∃ op arg out, exec i s = .next (driveCodec op arg out s) := by
  cases i <;> first
    | exact ⟨_, _, _, rfl⟩
    | simp [Safety.isCommand] at h

/-- Every capture keeps every field but the sample buffer. -/
theorem captureOf_eq (i : Instr) (raw : Raw) (s : State) :
    captureOf i raw s = { s with sampleBuf := (captureOf i raw s).sampleBuf } := by
  cases i <;> rfl

/-! The step. -/

/-- What the step can be: a refusal, RESET, the codec port, or the sequencer's turn. -/
theorem step_cases (s : State) :
    (s.cfg.legal = false ∧ step s = .refused .illegalConfiguration) ∨
    (s.cfg.legal = true ∧ ∃ rest, s.schedule = .reset :: rest ∧
      step s = .next (resetEvent { s with schedule := rest })) ∨
    (s.cfg.legal = true ∧ ∃ op arg rest, s.schedule = .codec op arg :: rest ∧
      step s = exec (decodeCodec (codecWord op arg)) { s with schedule := rest }) ∨
    (s.cfg.legal = true ∧ ∃ rest, (s.schedule = rest ∧ rest = [] ∨ s.schedule = .sequencer :: rest) ∧
      step s = runFetched (fetchSequencer { s with schedule := rest })) := by
  cases hl : s.cfg.legal with
  | false => exact .inl ⟨rfl, by simp [step, fetch, hl, runFetched]⟩
  | true =>
    refine .inr ?_
    cases hs : s.schedule with
    | nil =>
      refine .inr (.inr ⟨rfl, [], .inl ⟨rfl, rfl⟩, ?_⟩)
      have same : ({ s with schedule := [] } : State) = s := by rw [← hs]
      simp [step, fetch, hl, hs, same]
    | cons turn rest =>
      cases turn with
      | sequencer => exact .inr (.inr ⟨rfl, rest, .inr rfl, by simp [step, fetch, hl, hs]⟩)
      | codec op arg =>
        exact .inr (.inl ⟨rfl, op, arg, rest, rfl, by simp [step, fetch, hl, hs, runFetched]⟩)
      | reset => exact .inl ⟨rfl, rest, rfl, by simp [step, fetch, hl, hs, runFetched]⟩

/-- The sequencer's turn in IDLE and in a busy state. -/
theorem fetchSequencer_idle_none {s : State} (h : s.seq = .idle) (hc : s.commands = []) :
    fetchSequencer s = .settled (.next s) := by
  simp [fetchSequencer, h, hc]

theorem fetchSequencer_idle_ok {s : State} {p rest i} (h : s.seq = .idle)
    (hc : s.commands = p :: rest) (hd : decodeCmd p.word = .ok i) :
    fetchSequencer s = .run i s := by
  simp [fetchSequencer, h, hc, hd]

theorem fetchSequencer_idle_error {s : State} {p rest e} (h : s.seq = .idle)
    (hc : s.commands = p :: rest) (hd : decodeCmd p.word = .error e) :
    fetchSequencer s = .settled (.next (acceptIllegal p rest s)) := by
  simp [fetchSequencer, h, hc, hd]

theorem fetchSequencer_busy_ok {s : State} {i} (h : s.seq ≠ .idle)
    (hd : decodeCmd s.cmdLatch = .ok i) : fetchSequencer s = .run i s := by
  unfold fetchSequencer
  split
  · contradiction
  · simp [hd]

theorem fetchSequencer_busy_error {s : State} {e} (h : s.seq ≠ .idle)
    (hd : decodeCmd s.cmdLatch = .error e) :
    fetchSequencer s = .settled (.fault .latchNotCommand) := by
  unfold fetchSequencer
  split
  · contradiction
  · simp [hd]

/-- The fields of a codec word. -/
theorem codecWord_op (op : BitVec 2) (arg : Word) : (codecWord op arg).extractLsb' 32 2 = op := by
  apply BitVec.eq_of_getLsbD_eq
  intro k hk
  simp only [codecWord, BitVec.getLsbD_extractLsb', BitVec.getLsbD_append]
  interval_cases k <;> simp

theorem codecWord_arg (op : BitVec 2) (arg : Word) : (codecWord op arg).extractLsb' 0 32 = arg := by
  apply BitVec.eq_of_getLsbD_eq
  intro k hk
  simp only [codecWord, BitVec.getLsbD_extractLsb', BitVec.getLsbD_append]
  interval_cases k <;> simp

theorem codecWord_raw (op : BitVec 2) (arg : Word) :
    (codecWord op arg).extractLsb' 0 16 = field arg 0 16 := by
  apply BitVec.eq_of_getLsbD_eq
  intro k hk
  simp only [codecWord, field, BitVec.getLsbD_extractLsb', BitVec.getLsbD_append]
  interval_cases k <;> simp

theorem codecWord_halves (op : BitVec 2) (arg : Word) :
    (codecWord op arg).extractLsb' 16 16 ++ field arg 0 16 = arg := by
  apply BitVec.eq_of_getLsbD_eq
  intro k hk
  simp only [codecWord, field, BitVec.getLsbD_extractLsb', BitVec.getLsbD_append]
  interval_cases k <;> simp

/-- A use of the codec port runs the function that `codec_op` selects (R55). -/
theorem exec_decodeCodec (op : BitVec 2) (arg : Word) (s : State) :
    exec (decodeCodec (codecWord op arg)) s = .next (driveCodec op arg (codecPort s.cfg op arg) s) := by
  have cases4 : op = 0#2 ∨ op = 1#2 ∨ op = 2#2 ∨ op = 3#2 := by
    revert op
    decide
  unfold decodeCodec codecPort
  rw [codecWord_op, codecWord_arg, codecWord_raw]
  rcases cases4 with rfl | rfl | rfl | rfl
  · show Host.Outcome.next (driveCodec _ _ _ s) = _
    rw [codecWord_halves]
    rfl
  · show Host.Outcome.next (driveCodec _ _ _ s) = _
    rw [codecWord_halves]
    rfl
  · show Host.Outcome.next (driveCodec _ _ _ s) = _
    rw [BitVec.ofInt_toInt]
    rfl
  · show Host.Outcome.next (driveCodec _ _ _ s) = _
    rw [BitVec.ofInt_toInt]
    rfl

/-- The sequencer's turn, backwards: a wait in IDLE, an illegal word, an ACCEPT, an ISSUE or an ANSWER. -/
theorem sequencer_cases {s t : State} (h : runFetched (fetchSequencer s) = .next t) :
    (s.seq = .idle ∧ s.commands = [] ∧ t = s) ∨
    (∃ p rest e, s.seq = .idle ∧ s.commands = p :: rest ∧ decodeCmd p.word = .error e ∧
      t = acceptIllegal p rest s) ∨
    (∃ p rest i, s.seq = .idle ∧ s.commands = p :: rest ∧ decodeCmd p.word = .ok i ∧
      acceptEvent (checkOf i) (decide (i = .sample)) s = .next t) ∨
    (∃ i, s.seq = .issue ∧ decodeCmd s.cmdLatch = .ok i ∧
      issueEvent (Safety.program s.cfg i) s = .next t) ∨
    (∃ i, s.seq = .wait ∧ decodeCmd s.cmdLatch = .ok i ∧
      answerEvent (Safety.program s.cfg i) (captureOf i) (finishOf i) s = .next t) := by
  cases hq : s.seq with
  | idle =>
    cases hc : s.commands with
    | nil =>
      rw [fetchSequencer_idle_none hq hc] at h
      exact .inl ⟨rfl, rfl, by simpa [runFetched] using h.symm⟩
    | cons p rest =>
      cases hd : decodeCmd p.word with
      | error e =>
        rw [fetchSequencer_idle_error hq hc hd] at h
        exact .inr (.inl ⟨p, rest, e, rfl, rfl, hd, by simpa [runFetched] using h.symm⟩)
      | ok i =>
        rw [fetchSequencer_idle_ok hq hc hd, runFetched, exec_command (decodeCmd_isCommand hd),
          commandEvent_idle hq] at h
        exact .inr (.inr (.inl ⟨p, rest, i, rfl, rfl, hd, h⟩))
  | issue =>
    cases hd : decodeCmd s.cmdLatch with
    | error e =>
      rw [fetchSequencer_busy_error (by simp [hq]) hd] at h
      cases h
    | ok i =>
      rw [fetchSequencer_busy_ok (by simp [hq]) hd, runFetched,
        exec_command (decodeCmd_isCommand hd), commandEvent_issue hq] at h
      exact .inr (.inr (.inr (.inl ⟨i, rfl, rfl, h⟩)))
  | wait =>
    cases hd : decodeCmd s.cmdLatch with
    | error e =>
      rw [fetchSequencer_busy_error (by simp [hq]) hd] at h
      cases h
    | ok i =>
      rw [fetchSequencer_busy_ok (by simp [hq]) hd, runFetched,
        exec_command (decodeCmd_isCommand hd), commandEvent_wait hq] at h
      exact .inr (.inr (.inr (.inr ⟨i, rfl, rfl, h⟩)))

/-- The step, backwards: a next state comes from RESET, from a use of the codec port, or from the
sequencer's turn. -/
theorem step_next_cases {s t : State} (h : step s = .next t) :
    s.cfg.legal = true ∧
    ((∃ rest, s.schedule = .reset :: rest ∧ t = resetEvent { s with schedule := rest }) ∨
     (∃ op arg rest, s.schedule = .codec op arg :: rest ∧
        t = driveCodec op arg (codecPort s.cfg op arg) { s with schedule := rest }) ∨
     (∃ rest, (s.schedule = rest ∧ rest = [] ∨ s.schedule = .sequencer :: rest) ∧
        runFetched (fetchSequencer { s with schedule := rest }) = .next t)) := by
  rcases step_cases s with ⟨-, hs⟩ | ⟨hl, rest, hsch, hs⟩ | ⟨hl, op, arg, rest, hsch, hs⟩ |
      ⟨hl, rest, hsch, hs⟩ <;> rw [hs] at h
  · cases h
  · exact ⟨hl, .inl ⟨rest, hsch, by simpa using h.symm⟩⟩
  · rw [exec_decodeCodec] at h
    exact ⟨hl, .inr (.inl ⟨op, arg, rest, hsch, by simpa using h.symm⟩)⟩
  · exact ⟨hl, .inr (.inr ⟨rest, hsch, h⟩)⟩

end Sys2Proof.Machine
end

