-- ==== Sys2Proof/Laws/Pack.lean ====
section
/-! SUPPORT. Where a field of the configuration word lies (42_configuration.md rule R115). -/

namespace Sys2Proof

/-- A bit of a placed field. -/
theorem placeField_getLsbD {n : Nat} (v : BitVec n) (pos k : Nat) :
    (placeField v pos).getLsbD k = (decide (k < 16) && decide (pos ≤ k) && v.getLsbD (k - pos)) := by
  simp only [placeField, BitVec.getLsbD_shiftLeft, BitVec.getLsbD_setWidth]
  by_cases h1 : k < 16
  · by_cases h2 : pos ≤ k
    · have h3 : k - pos < 16 := by omega
      have h4 : ¬k < pos := by omega
      simp [h1, h2, h3, h4]
    · simp [h2, show k < pos by omega]
  · simp [h1]

/-- Outside its span a placed field is 0. -/
theorem placeField_outside {n : Nat} (v : BitVec n) {pos k : Nat} (h : k < pos ∨ pos + n ≤ k) :
    (placeField v pos).getLsbD k = false := by
  rw [placeField_getLsbD]
  rcases h with h | h
  · simp [show ¬pos ≤ k by omega]
  · simp [BitVec.getLsbD_of_ge v (k - pos) (by omega)]

/-- Inside its span a placed field is the field. -/
theorem placeField_inside {n : Nat} (v : BitVec n) {pos k : Nat} (h : pos + n ≤ 16) (hk : k < n) :
    (placeField v pos).getLsbD (pos + k) = v.getLsbD k := by
  rw [placeField_getLsbD]
  simp [show pos + k < 16 by omega]

end Sys2Proof
end

