-- ==== Sys2Proof/Laws/PerInstr.lean ====
section
/-! SUPPORT. The family of statements made once for each instruction as syntax: the word that the
encoder writes for a well-formed instruction is of the instruction's row of the opcode table. -/

namespace Sys2Proof.Laws

/-- An encoded instruction is of its row: `w & mask = pattern` (30_encoding.md rules R53, R55). -/
def EncodedRow.Statement (i : Instr) : Prop :=
  i.wellFormed = true → (encode i).ofRow (tableRow i) = true

/-- A command word is of a row when it is one as a bit vector. -/
theorem cmd_ofRow {w m v : Word} {r : TableRow} (h : w &&& m = v) (hm : m.toNat = r.mask)
    (hv : v.toNat = r.pattern) : (PortWord.cmd w).ofRow r = true := by
  simp only [PortWord.ofRow, PortWord.number, decide_eq_true_eq, ← hm, ← hv, ← h, BitVec.toNat_and]

/-- A codec word is of a row when it is one as a bit vector. -/
theorem codec_ofRow {p m v : BitVec 34} {r : TableRow} (h : p &&& m = v) (hm : m.toNat = r.mask)
    (hv : v.toNat = r.pattern) : (PortWord.codec p).ofRow r = true := by
  simp only [PortWord.ofRow, PortWord.number, decide_eq_true_eq, ← hm, ← hv, ← h, BitVec.toNat_and]

/-- A command word under the mask of its upper half. -/
theorem cmdWord_upper (opcode : BitVec 8) (operand : Raw) :
    cmdWord opcode operand &&& 0xFFFF0000#32 = cmdWord opcode 0#16 := by
  unfold cmdWord
  apply BitVec.eq_of_getLsbD_eq
  intro k hk
  simp only [BitVec.getLsbD_and, BitVec.getLsbD_append]
  interval_cases k <;> simp

/-- Bit 15 of a CONFIG operand is 0 (R54). -/
theorem settingsOperand_bit15 (s : Settings) : (settingsOperand s).getLsbD 15 = false := by
  simp only [settingsOperand, BitVec.getLsbD_append]
  simp

/-- A CONFIG word under the mask that takes bit 15 in. -/
theorem configWord_upper (s : Settings) :
    cmdWord 0x03#8 (settingsOperand s) &&& 0xFFFF8000#32 = 0x03000000#32 := by
  have h15 := settingsOperand_bit15 s
  unfold cmdWord
  apply BitVec.eq_of_getLsbD_eq
  intro k hk
  simp only [BitVec.getLsbD_and, BitVec.getLsbD_append]
  interval_cases k <;> simp_all

/-- A codec word under the mask of its two selecting bits. -/
theorem codecWord_upper (op : BitVec 2) (arg : Word) :
    codecWord op arg &&& 0x300000000#34 = codecWord op 0#32 := by
  unfold codecWord
  apply BitVec.eq_of_getLsbD_eq
  intro k hk
  simp only [BitVec.getLsbD_and, BitVec.getLsbD_append]
  interval_cases k <;> simp

theorem EncodedRow.rdbus (ch : Nat) : EncodedRow.Statement (.rdbus ch) :=
  fun _ => cmd_ofRow (cmdWord_upper 0x01#8 (BitVec.ofNat 16 ch)) rfl rfl

theorem EncodedRow.rdshunt (ch : Nat) : EncodedRow.Statement (.rdshunt ch) :=
  fun _ => cmd_ofRow (cmdWord_upper 0x02#8 (BitVec.ofNat 16 ch)) rfl rfl

theorem EncodedRow.config (settings : Settings) : EncodedRow.Statement (.config settings) :=
  fun _ => cmd_ofRow (configWord_upper settings) rfl rfl

theorem EncodedRow.defcfg : EncodedRow.Statement .defcfg :=
  fun _ => by decide

theorem EncodedRow.rdmfr : EncodedRow.Statement .rdmfr :=
  fun _ => by decide

theorem EncodedRow.rddie : EncodedRow.Statement .rddie :=
  fun _ => by decide

theorem EncodedRow.rdcfg : EncodedRow.Statement .rdcfg :=
  fun _ => by decide

theorem EncodedRow.rdmask : EncodedRow.Statement .rdmask :=
  fun _ => by decide

theorem EncodedRow.sample : EncodedRow.Statement .sample :=
  fun _ => by decide

theorem EncodedRow.decbus (ignored raw : Raw) : EncodedRow.Statement (.decbus ignored raw) :=
  fun _ => codec_ofRow (codecWord_upper 0#2 (ignored ++ raw)) rfl rfl

theorem EncodedRow.decshunt (ignored raw : Raw) : EncodedRow.Statement (.decshunt ignored raw) :=
  fun _ => codec_ofRow (codecWord_upper 1#2 (ignored ++ raw)) rfl rfl

theorem EncodedRow.encbus (phys : Int) : EncodedRow.Statement (.encbus phys) :=
  fun _ => codec_ofRow (codecWord_upper 2#2 (BitVec.ofInt 32 phys)) rfl rfl

theorem EncodedRow.encshunt (phys : Int) : EncodedRow.Statement (.encshunt phys) :=
  fun _ => codec_ofRow (codecWord_upper 3#2 (BitVec.ofInt 32 phys)) rfl rfl

end Sys2Proof.Laws
end

