-- ==== Sys2Proof/Laws/Run.lean ====
section
/-! SUPPORT. The laws of a run of several steps, in the model's own names. -/

namespace Sys2Proof.Machine

theorem run_zero (s : State) : Host.Core.run Sys2Proof.core 0 s = .next s := rfl

theorem run_succ_next {n : Nat} {s t : State} (h : step s = .next t) :
    Host.Core.run Sys2Proof.core (n + 1) s = Host.Core.run Sys2Proof.core n t := by
  have hc : Host.Core.step Sys2Proof.core s = .next t := h
  simp only [Host.Core.run, hc]

theorem run_succ_fault {n : Nat} {s : State} {f : Fault} (h : step s = .fault f) :
    Host.Core.run Sys2Proof.core (n + 1) s = .fault f := by
  have hc : Host.Core.step Sys2Proof.core s = .fault f := h
  simp only [Host.Core.run, hc]

theorem run_succ_refused {n : Nat} {s : State} {r : Refusal} (h : step s = .refused r) :
    Host.Core.run Sys2Proof.core (n + 1) s = .refused r := by
  have hc : Host.Core.step Sys2Proof.core s = .refused r := h
  simp only [Host.Core.run, hc]

/-- A run that goes on takes its first step, and the rest is a run from there. -/
theorem run_succ_cases {n : Nat} {s u : State}
    (h : Host.Core.run Sys2Proof.core (n + 1) s = .next u) :
    ∃ t, step s = .next t ∧ Host.Core.run Sys2Proof.core n t = .next u := by
  cases hs : step s with
  | next t => exact ⟨t, rfl, (run_succ_next hs).symm.trans h⟩
  | fault f =>
    have hf := (run_succ_fault (n := n) hs).symm.trans h
    cases hf
  | refused r =>
    have hr := (run_succ_refused (n := n) hs).symm.trans h
    cases hr

/-- Two runs, one after the other. -/
theorem run_add {m n : Nat} {s t : State} (h : Host.Core.run Sys2Proof.core m s = .next t) :
    Host.Core.run Sys2Proof.core (m + n) s = Host.Core.run Sys2Proof.core n t := by
  induction m generalizing s with
  | zero =>
    have hst : s = t := by
      have h0 := (run_zero s).symm.trans h
      injection h0
    rw [hst, Nat.zero_add]
  | succ m ih =>
    obtain ⟨u, hu, hrest⟩ := run_succ_cases h
    rw [show m + 1 + n = (m + n) + 1 by omega, run_succ_next hu]
    exact ih hrest

end Sys2Proof.Machine
end

