-- ==== Sys2Proof/Tests/Slice0.lean ====
section
/-! SUPPORT. The model's own tests. The expected results are those of 95_test_vectors.md and of the tables
of 30_encoding.md, worked by hand; and for every statement that has hypotheses a theorem shows a state
and operands that meet them. -/

namespace Sys2Proof.Tests

open Sys2Proof.Machine Sys2Proof.Safety

/-! The smoke of the well-formedness check: an ill-formed term for each check, and the last good ones. -/

theorem test_wellFormed_refuses_rdbus_65536 : (Instr.rdbus 65536).wellFormed = false := by decide

theorem test_wellFormed_refuses_rdshunt_65536 : (Instr.rdshunt 65536).wellFormed = false := by decide

theorem test_wellFormed_refuses_encbus_2147483648 :
    (Instr.encbus 2147483648).wellFormed = false := by decide

theorem test_wellFormed_refuses_encshunt_below :
    (Instr.encshunt (-2147483649)).wellFormed = false := by decide

theorem test_wellFormed_takes_the_ends :
    (Instr.rdbus 65535).wellFormed = true ∧ (Instr.rdshunt 0).wellFormed = true ∧
    (Instr.encbus 2147483647).wellFormed = true ∧
    (Instr.encshunt (-2147483648)).wellFormed = true := by decide

/-! Decoding: words written bit by bit from the tables of R51, R53, R54 and R55. -/

theorem test_decode_rdbus :
    decode (.cmd 0b00000001_00000000_0000000011111111#32) = .ok (.rdbus 255) := by decide

theorem test_decode_rdshunt :
    decode (.cmd 0b00000010_00000000_1111111111111111#32) = .ok (.rdshunt 65535) := by decide

/-- The word of program P5: en1, en2, en3 = 110, avg = 010, vbus_ct = 100, vsh_ct = 100, mode = 111. -/
theorem test_decode_config :
    decode (.cmd 0b00000011_00000000_0_1_1_0_010_100_100_111#32) =
      .ok (.config ⟨true, true, false, 2#3, 4#3, 4#3, 7#3⟩) ∧
    decode (.cmd 0b00000011_00000000_0_0_0_1_001_011_101_110#32) =
      .ok (.config ⟨false, false, true, 1#3, 3#3, 5#3, 6#3⟩) := by decide

theorem test_decode_defcfg :
    decode (.cmd 0b00000100_00000000_0000000000000000#32) = .ok .defcfg := by decide

theorem test_decode_rdmfr :
    decode (.cmd 0b00000101_00000000_0000000000000000#32) = .ok .rdmfr := by decide

theorem test_decode_rddie :
    decode (.cmd 0b00000110_00000000_0000000000000000#32) = .ok .rddie := by decide

theorem test_decode_rdcfg :
    decode (.cmd 0b00000111_00000000_0000000000000000#32) = .ok .rdcfg := by decide

theorem test_decode_rdmask :
    decode (.cmd 0b00001000_00000000_0000000000000000#32) = .ok .rdmask := by decide

theorem test_decode_sample :
    decode (.cmd 0b00001001_00000000_0000000000000000#32) = .ok .sample := by decide

theorem test_decode_decbus :
    decode (.codec 0b00_1101111010101101_0001000000000000#34) =
      .ok (.decbus 0xDEAD#16 0x1000#16) := by decide

theorem test_decode_decshunt :
    decode (.codec 0b01_0000000000000000_1000000000000000#34) =
      .ok (.decshunt 0x0000#16 0x8000#16) := by decide

theorem test_decode_encbus :
    decode (.codec 0b10_00000000000001111101000000000000#34) = .ok (.encbus 512000) := by decide

theorem test_decode_encshunt :
    decode (.codec 0b11_11111111111111111111111111111101#34) = .ok (.encshunt (-3)) := by decide

/-- Tests (1) to (4) of R52 in their order, with the words of 95_test_vectors.md section 4. -/
theorem test_decode_refuses_by_name :
    decodeCmd 0x00000000#32 = .error .unknownOpcode ∧
    decodeCmd 0x0A000000#32 = .error .unknownOpcode ∧
    decodeCmd 0xFFFFFFFF#32 = .error .unknownOpcode ∧
    decodeCmd 0x01010000#32 = .error .reservedField ∧
    decodeCmd 0x09000001#32 = .error .operandNotZero ∧
    decodeCmd 0x04000001#32 = .error .operandNotZero ∧
    decodeCmd 0x03008000#32 = .error .configBit15 := by decide

theorem test_decodeTableWord :
    decodeTableWord 32 0x01000001 = some (.rdbus 1) ∧
    decodeTableWord 40 0x20007D000 = some (.encbus 512000) ∧
    decodeTableWord 34 0x100000000 = some (.decshunt 0#16 0#16) ∧
    decodeTableWord 32 0 = none ∧ decodeTableWord 40 0x400000000 = none := by decide

/-! Helpers: small states around one event, and a check of the state that one step answers. -/

/-- An IDLE sequencer with one command at the port. -/
def presenting (word : Word) (ts : Nat) : State :=
  { State.reset with commands := [⟨word, ts⟩] }

/-- A sequencer about to send the request of a step. -/
def issuing (word : Word) (k : Nat) : State :=
  { State.reset with seq := .issue, cmdLatch := word, stepCtr := BitVec.ofNat 3 k }

/-- A sequencer that waits for the answer of a step, and the answer. -/
def waiting (word : Word) (k : Nat) (r : Request) (a : Answer) : State :=
  { State.reset with
    seq := .wait
    cmdLatch := word
    stepCtr := BitVec.ofNat 3 k
    pending := some r
    answers := [a] }

/-- A use of the codec port. -/
def driving (op : BitVec 2) (arg : Word) : State :=
  { State.reset with schedule := [.codec op arg] }

/-- The step answers a next state that passes a check. -/
def stepsTo (s : State) (check : State → Bool) : Bool :=
  match step s with
  | .next t => check t
  | .fault _ => false
  | .refused _ => false

/-- A request for two bytes of a register of the chip at the default address. -/
def readOf (reg : RegPtr) : Request := .read 0x40#7 reg 2#2

/-! One step of each command (95_test_vectors.md sections 1, 5 and 6). -/

theorem test_rdbus_2_reads_04 :
    stepsTo (issuing 0x01000002#32 0) (fun t => decide (t.pending = some (readOf 0x04#8))) = true := by
  decide

/-- Byte order and sign: `[FF F8]` is -1 count. -/
theorem test_rdbus_3_answers_microvolts :
    stepsTo (waiting 0x01000003#32 0 (readOf 0x06#8) (.ok 0xFF#8 0xF8#8)) (fun t =>
      decide (t.respStatus = 0#3 ∧ t.respData.toInt = -1000 ∧ t.seq = .idle)) = true ∧
    stepsTo (waiting 0x01000003#32 0 (readOf 0x06#8) (.ok 0x00#8 0x10#8)) (fun t =>
      decide (t.respData.toInt = 2000)) = true := by decide

theorem test_rdshunt_3_reads_05 :
    stepsTo (issuing 0x02000003#32 0) (fun t => decide (t.pending = some (readOf 0x05#8))) = true := by
  decide

theorem test_rdshunt_2_answers_microvolts :
    stepsTo (waiting 0x02000002#32 0 (readOf 0x03#8) (.ok 0x80#8 0x00#8)) (fun t =>
      decide (t.respValid = true ∧ t.respData.toInt = -20480)) = true := by decide

/-- S8. -/
theorem test_config_writes_5007 :
    stepsTo (issuing 0x03005007#32 0) (fun t =>
      decide (t.trace = [.requested (.write 0x40#7 0x00#8 2#2 0x50#8 0x07#8)])) = true := by decide

theorem test_config_ends_without_data :
    stepsTo (waiting 0x03007127#32 0 (.write 0x40#7 0x00#8 2#2 0x71#8 0x27#8) (.ok 0#8 0#8)) (fun t =>
      decide (t.respStatus = 0#3 ∧ t.respData = 0#32)) = true := by decide

theorem test_defcfg_writes_7127 :
    stepsTo (issuing 0x04000000#32 0) (fun t =>
      decide (t.pending = some (.write 0x40#7 0x00#8 2#2 0x71#8 0x27#8))) = true := by decide

theorem test_defcfg_bus_error :
    stepsTo (waiting 0x04000000#32 0 (.write 0x40#7 0x00#8 2#2 0x71#8 0x27#8) (.err 3)) (fun t =>
      decide (t.respStatus = 2#3 ∧ t.respErr = 3 ∧ t.seq = .idle)) = true := by decide

theorem test_rdmfr_reads_FE :
    stepsTo (issuing 0x05000000#32 0) (fun t => decide (t.pending = some (readOf 0xFE#8))) = true := by
  decide

/-- No identity check: `[12 34]` is returned as it is. -/
theorem test_rdmfr_answers_raw :
    stepsTo (waiting 0x05000000#32 0 (readOf 0xFE#8) (.ok 0x12#8 0x34#8)) (fun t =>
      decide (t.respStatus = 0#3 ∧ t.respData = 0x00001234#32)) = true := by decide

theorem test_rddie_reads_FF :
    stepsTo (issuing 0x06000000#32 0) (fun t => decide (t.pending = some (readOf 0xFF#8))) = true := by
  decide

theorem test_rddie_answers_raw :
    stepsTo (waiting 0x06000000#32 0 (readOf 0xFF#8) (.ok 0x32#8 0x20#8)) (fun t =>
      decide (t.respData = 0x00003220#32)) = true := by decide

theorem test_rdcfg_reads_00 :
    stepsTo (issuing 0x07000000#32 0) (fun t => decide (t.pending = some (readOf 0x00#8))) = true := by
  decide

/-- A raw value with bit 15 set is zero-extended, not sign-extended. -/
theorem test_rdcfg_zero_extends :
    stepsTo (waiting 0x07000000#32 0 (readOf 0x00#8) (.ok 0xF1#8 0x27#8)) (fun t =>
      decide (t.respData = 0x0000F127#32)) = true := by decide

theorem test_rdmask_reads_0F :
    stepsTo (issuing 0x08000000#32 0) (fun t => decide (t.pending = some (readOf 0x0F#8))) = true := by
  decide

theorem test_rdmask_answers_raw :
    stepsTo (waiting 0x08000000#32 0 (readOf 0x0F#8) (.ok 0x00#8 0x02#8)) (fun t =>
      decide (t.respData = 0x00000002#32)) = true := by decide

/-- P2, step 3: shunt voltage of channel 2, `x[3]` = -5, and then step 4. -/
theorem test_sample_step_3 :
    stepsTo (waiting 0x09000000#32 3 (readOf 0x03#8) (.ok 0xFF#8 0xF8#8)) (fun t =>
      decide (t.sampleBuf.shunt2.toInt = -5 ∧ t.sampleBuf.bus2 = 0#32 ∧ t.stepCtr = 4#3 ∧
        t.seq = .issue ∧ t.respValid = false)) = true := by decide

/-- P2, the last step: the whole record. -/
theorem test_sample_step_5 :
    stepsTo { waiting 0x09000000#32 5 (readOf 0x05#8) (.ok 0x80#8 0x00#8) with
        tsLatch := 1000
        sampleBuf := ⟨512000#32, 5#32, 1024000#32, BitVec.ofInt 32 (-5), 0#32, 77#32⟩ } (fun t =>
      decide (t.respStatus = 0#3 ∧ t.respSample = ⟨1000, ⟨512000#32, 5#32, 1024000#32,
        BitVec.ofInt 32 (-5), 0#32, BitVec.ofInt 32 (-20480)⟩⟩)) = true := by decide

/-! The codec port (95_test_vectors.md sections 2 and 3). -/

/-- S10: the count of 0xFFF8 is -1; and the upper half of `codec_in` is ignored. -/
theorem test_decbus :
    stepsTo (driving 0b00#2 0x0000FFF8#32) (fun t => decide (t.codecOut = 0xFFFFFC18#32)) = true ∧
    stepsTo (driving 0b00#2 0xDEAD1000#32) (fun t => decide (t.codecOut = 512000#32)) = true := by
  decide

/-- S11; and the shift is a floor. -/
theorem test_decshunt :
    stepsTo (driving 0b01#2 0x00001000#32) (fun t => decide (t.codecOut = 2560#32)) = true ∧
    stepsTo (driving 0b01#2 0x0000FFF7#32) (fun t => decide (t.codecOut.toInt = -10)) = true := by
  decide

/-- Ties away from zero: 512500 goes to 513, -500 to -1. -/
theorem test_encbus_ties :
    stepsTo (driving 0b10#2 512500#32) (fun t => decide (t.codecOut = 0x00001008#32)) = true ∧
    stepsTo (driving 0b10#2 (BitVec.ofInt 32 (-500))) (fun t =>
      decide (t.codecOut = 0x0000FFF8#32)) = true ∧
    stepsTo (driving 0b10#2 499#32) (fun t => decide (t.codecOut = 0#32)) = true := by decide

/-- S12. -/
theorem test_encbus_saturates :
    stepsTo (driving 0b10#2 5000000#32) (fun t => decide (t.codecOut = 0x00007FF8#32)) = true ∧
    stepsTo (driving 0b10#2 0x80000000#32) (fun t =>
      decide (t.codecOut = 0x00008000#32)) = true := by decide

theorem test_encshunt_rounds :
    stepsTo (driving 0b11#2 20472#32) (fun t => decide (t.codecOut = 0x00007FF0#32)) = true ∧
    stepsTo (driving 0b11#2 20473#32) (fun t => decide (t.codecOut = 0x00007FF8#32)) = true ∧
    stepsTo (driving 0b11#2 (BitVec.ofInt 32 (-20477))) (fun t =>
      decide (t.codecOut = 0x00008008#32)) = true := by decide

/-- The LSB constants are parameters: 8000 and 40 (95_test_vectors.md section 2). -/
theorem test_other_scales :
    (decBus { Config.default with busLsbUv := 8000 } 0x1000#16 = 4096000) ∧
    (decShunt { Config.default with shuntLsbUv := 40 } 0x1000#16 = 20480) := by decide

/-! Errors, reset, waits. -/

theorem test_channel_257_is_turned_away :
    stepsTo (presenting 0x01000101#32 0) (fun t =>
      decide (t.respStatus = 1#3 ∧ t.respValid = true ∧ t.seq = .idle ∧ t.commands = [] ∧
        t.pending = none)) = true := by decide

/-- The reserved field is tested before the channel. -/
theorem test_reserved_field_before_channel :
    stepsTo (presenting 0x01010000#32 0) (fun t =>
      decide (t.respStatus = 3#3 ∧ t.trace =
        [.accepted 0x01010000#32 0, .responded (.error .illegalCommand)])) = true := by decide

/-- RESET in WAIT: no response, the outstanding answer is dropped, the next one is not. -/
theorem test_reset_in_wait :
    stepsTo { waiting 0x05000000#32 0 (readOf 0xFE#8) (.ok 1#8 2#8) with
        schedule := [.reset]
        answers := [.ok 1#8 2#8, .err 9] } (fun t =>
      decide (t.seq = .idle ∧ t.respValid = false ∧ t.pending = none ∧ t.answers = [.err 9])) =
      true := by decide

theorem test_illegal_configurations_are_refused :
    ({ Config.default with busLsbUv := 0 } : Config).legal = false ∧
    ({ Config.default with busLsbUv := 524288 } : Config).legal = false ∧
    ({ Config.default with shuntLsbUv := 1000 } : Config).legal = false ∧
    ({ Config.default with defaultConfig := 0xF127#16 } : Config).legal = false ∧
    ({ Config.default with defaultConfig := 0x3127#16 } : Config).legal = false ∧
    ({ Config.default with layout := { CfgLayout.default with avg := 8 } } : Config).legal = false ∧
    ({ Config.default with
        regMap := { RegMap.default with dieId := ⟨0xFE#8, .readOnly⟩ } } : Config).legal = false ∧
    ({ Config.default with busLsbUv := 524287 } : Config).legal = true := by decide

/-- Another layout: the fields in the opposite order. -/
theorem test_pack_under_another_layout :
    pack ⟨0, 1, 2, 3, 6, 9, 12⟩ ⟨true, false, true, 1#3, 2#3, 3#3, 7#3⟩ =
      0b0_111_011_010_001_1_0_1#16 := by decide

theorem test_withFetchWord_runs_the_word :
    stepsTo (State.withFetchWord State.reset 32 0x09000000) (fun t =>
      decide (t.seq = .issue ∧ t.cmdLatch = 0x09000000#32)) = true ∧
    stepsTo (State.withFetchWord State.reset 40 0x20007D000) (fun t =>
      decide (t.codecOut = 0x00001000#32)) = true := by decide

/-! The textual form (R60). -/

theorem test_assemble :
    Assembler.assemble "RDBUS 0x0101" = some (.cmd 0x01000101#32) ∧
    Assembler.assemble "  RDSHUNT  3 ; shunt" = some (.cmd 0x02000003#32) ∧
    Assembler.assemble "CONFIG mode=5 en1=1" = some (.cmd 0x03004005#32) ∧
    Assembler.assemble "SAMPLE" = some (.cmd 0x09000000#32) ∧
    Assembler.assemble "DECSHUNT 0x8000" = some (.codec 0x100008000#34) ∧
    Assembler.assemble "ENCSHUNT -3" = some (.codec 0x3FFFFFFFD#34) := by decide

theorem test_assemble_refuses :
    Assembler.assemble "RDBUS 65536" = none ∧ Assembler.assemble "CONFIG 0x8000" = none ∧
    Assembler.assemble "CONFIG mode=8" = none ∧ Assembler.assemble "SAMPLE 1" = none ∧
    Assembler.assemble "ENCBUS 2147483648" = none ∧ Assembler.assemble "sample" = none := by decide

/-! The hypotheses of the statements can be met: for each a state and operands that meet them together, and
for each clause its own. -/

theorem witness_DecbusIsCountTimesBusScale : (driving 0b00#2 0xFFFF8000#32).cfg.legal = true := by decide

theorem witness_DecshuntIsCountTimesShuntScale :
    (driving 0b01#2 0x00007FFF#32).cfg.legal = true := by decide

theorem witness_EncbusRoundsToNearestAndSaturates :
    signedMicrovolts (-2147483648) = true ∧ signedMicrovolts 2147483647 = true ∧
    (driving 0b10#2 0x80000000#32).cfg.legal = true := by decide

theorem witness_EncshuntRoundsToNearestAndSaturates :
    signedMicrovolts (-2147483648) = true ∧ signedMicrovolts 2147483647 = true ∧
    (driving 0b11#2 0x7FFFFFFF#32).cfg.legal = true := by decide

theorem witness_EncodeInvertsDecodeUpToPadding :
    lsbInRange 1 = true ∧ lsbInRange 524287 = true := by decide

theorem witness_CodecKeepsSignAndOrder :
    lsbInRange 524287 = true ∧ (0x8000#16).getLsbD 15 = true ∧ (0x7FFF#16).getLsbD 15 = false ∧
    (0xFFFF#16).toInt ≤ (0x0000#16).toInt ∧ (-2147483648 : Int) ≤ 2147483647 := by decide

theorem witness_TheTwoDecodesDifferOutsideZeroCount : Config.default.legal = true := by decide

theorem witness_EncodeErrsByAtMostHalfAUnit :
    (lsbInRange 5 = true ∧ -4096 * ((5 : Nat) : Int) ≤ -20480 ∧ -20480 ≤ 4095 * ((5 : Nat) : Int)) ∧
    (lsbInRange 1000 = true ∧ -4096 * ((1000 : Nat) : Int) ≤ 4095000 ∧
      4095000 ≤ 4095 * ((1000 : Nat) : Int)) := by decide

theorem witness_CodecPortIsIndependentOfTheSequencer :
    (∃ s : State, s.cfg.legal = true ∧ s.seq = .wait ∧ s.schedule = [.codec 0b11#2 0x80000000#32]) ∧
    (∃ c d : Config, c ≠ d ∧ c.busLsbUv = d.busLsbUv ∧ c.shuntLsbUv = d.shuntLsbUv) ∧
    (∃ t, step (issuing 0x05000000#32 0) = .next t ∧
      ∀ op arg rest, (issuing 0x05000000#32 0).schedule ≠ .codec op arg :: rest) :=
  ⟨⟨{ waiting 0x05000000#32 0 (readOf 0xFE#8) (.ok 1#8 2#8) with
      schedule := [.codec 0b11#2 0x80000000#32] }, by decide⟩,
    ⟨Config.default, { Config.default with devAddr := 0x43#7 }, by decide⟩,
    ⟨_, rfl, fun _ _ _ h => by cases h⟩⟩

/-- What the premises of `Starts` and `TurnsAwayChannel` ask for. -/
theorem witness_presented (word : Word) :
    (presenting word 5).seq = .idle ∧ (presenting word 5).commands = [⟨word, 5⟩] := ⟨rfl, rfl⟩

theorem witness_RdbusReadsAndDecodesItsChannel :
    (presenting 0x01000003#32 0).seq = .idle ∧
    (presenting 0x01000003#32 0).commands = [⟨0x01000003#32, 0⟩] ∧
    ((issuing 0x01000003#32 0).seq = .issue ∧ (issuing 0x01000003#32 0).stepCtr.toNat = 0) ∧
    ((waiting 0x01000003#32 0 (readOf 0x06#8) (.err 255)).seq = .wait ∧
      (waiting 0x01000003#32 0 (readOf 0x06#8) (.err 255)).stepCtr.toNat = 0 ∧
      (waiting 0x01000003#32 0 (readOf 0x06#8) (.err 255)).answers = [.err 255]) ∧
    ((waiting 0x01000001#32 0 (readOf 0x02#8) (.ok 0x80#8 0#8)).cfg.legal = true ∧
      (waiting 0x01000001#32 0 (readOf 0x02#8) (.ok 0x80#8 0#8)).answers = [.ok 0x80#8 0#8]) ∧
    ¬((0 : Nat) = 1 ∨ (0 : Nat) = 2 ∨ (0 : Nat) = 3) ∧
    ¬((4 : Nat) = 1 ∨ (4 : Nat) = 2 ∨ (4 : Nat) = 3) := by decide

theorem witness_RdshuntReadsAndDecodesItsChannel :
    (presenting 0x0200FFFF#32 0).seq = .idle ∧
    (presenting 0x0200FFFF#32 0).commands = [⟨0x0200FFFF#32, 0⟩] ∧
    ((issuing 0x02000001#32 0).seq = .issue ∧ (issuing 0x02000001#32 0).stepCtr.toNat = 0) ∧
    ((waiting 0x02000001#32 0 (readOf 0x01#8) (.err 0)).seq = .wait ∧
      (waiting 0x02000001#32 0 (readOf 0x01#8) (.err 0)).stepCtr.toNat = 0 ∧
      (waiting 0x02000001#32 0 (readOf 0x01#8) (.err 0)).answers = [.err 0]) ∧
    ((waiting 0x02000003#32 0 (readOf 0x05#8) (.ok 0x7F#8 0xFF#8)).cfg.legal = true ∧
      (waiting 0x02000003#32 0 (readOf 0x05#8) (.ok 0x7F#8 0xFF#8)).answers = [.ok 0x7F#8 0xFF#8]) ∧
    ¬((65535 : Nat) = 1 ∨ (65535 : Nat) = 2 ∨ (65535 : Nat) = 3) := by decide

theorem witness_PassThroughReadsReturnTheRawBits :
    (field 0x05000001#32 24 8 = field 0x05000000#32 24 8 ∧ 0x05000001#32 ≠ 0x05000000#32) ∧
    ((issuing 0x05000000#32 0).seq = .issue ∧ (issuing 0x05000000#32 0).stepCtr.toNat = 0) ∧
    ((waiting 0x08000000#32 0 (readOf 0x0F#8) (.ok 0xFF#8 0xFF#8)).cfg.legal = true ∧
      (waiting 0x08000000#32 0 (readOf 0x0F#8) (.ok 0xFF#8 0xFF#8)).seq = .wait ∧
      (waiting 0x08000000#32 0 (readOf 0x0F#8) (.ok 0xFF#8 0xFF#8)).stepCtr.toNat = 0) := by decide

theorem witness_ConfigWritesThePackedWord :
    (field 0x03008000#32 24 8 = 0x03#8 ∧ (0x03008000#32).getLsbD 15 = true) ∧
    ((issuing 0x03007FFF#32 0).seq = .issue ∧ (issuing 0x03007FFF#32 0).stepCtr.toNat = 0) ∧
    ((waiting 0x03000000#32 0 (.write 0x40#7 0#8 2#2 0#8 0#8) (.ok 0#8 0#8)).seq = .wait ∧
      (waiting 0x03000000#32 0 (.write 0x40#7 0#8 2#2 0#8 0#8) (.ok 0#8 0#8)).stepCtr.toNat = 0 ∧
      (waiting 0x03000000#32 0 (.write 0x40#7 0#8 2#2 0#8 0#8) (.ok 0#8 0#8)).answers =
        [.ok 0#8 0#8]) := by decide

theorem witness_DefcfgWritesTheDefaultWord :
    ((issuing 0x04000000#32 0).seq = .issue ∧ (issuing 0x04000000#32 0).stepCtr.toNat = 0) ∧
    ((waiting 0x04000000#32 0 (.write 0x40#7 0#8 2#2 0x71#8 0x27#8) (.err 3)).seq = .wait ∧
      (waiting 0x04000000#32 0 (.write 0x40#7 0#8 2#2 0x71#8 0x27#8) (.err 3)).stepCtr.toNat = 0 ∧
      (waiting 0x04000000#32 0 (.write 0x40#7 0#8 2#2 0x71#8 0x27#8) (.err 3)).answers = [.err 3]) := by
  decide

theorem witness_SampleStepsReadDecodeAndStoreInOrder :
    (presenting 0x09000000#32 (2 ^ 64)).commands = [⟨0x09000000#32, 2 ^ 64⟩] ∧
    (∀ k, k < 6 → (issuing 0x09000000#32 k).seq = .issue ∧
      (issuing 0x09000000#32 k).stepCtr.toNat = k) ∧
    (∀ k, k < 6 → (waiting 0x09000000#32 k (readOf 0#8) (.ok 0x80#8 0#8)).cfg.legal = true ∧
      (waiting 0x09000000#32 k (readOf 0#8) (.ok 0x80#8 0#8)).seq = .wait ∧
      (waiting 0x09000000#32 k (readOf 0#8) (.ok 0x80#8 0#8)).stepCtr.toNat = k) := by decide

theorem witness_SampleGoesOnToTheNextStepOrFails :
    ((waiting 0x09000000#32 4 (readOf 0x06#8) (.ok 0#8 0#8)).seq = .wait ∧
      (waiting 0x09000000#32 4 (readOf 0x06#8) (.ok 0#8 0#8)).stepCtr.toNat = 4 ∧ 4 < 5) ∧
    ((waiting 0x09000000#32 5 (readOf 0x05#8) (.err 1)).seq = .wait ∧
      (waiting 0x09000000#32 5 (readOf 0x05#8) (.err 1)).stepCtr.toNat = 5 ∧
      (waiting 0x09000000#32 5 (readOf 0x05#8) (.err 1)).answers = [.err 1]) := by decide

theorem witness_SampleHandsOverTheWholeRecord :
    (waiting 0x09000000#32 5 (readOf 0x05#8) (.ok 0x80#8 0#8)).cfg.legal = true ∧
    (waiting 0x09000000#32 5 (readOf 0x05#8) (.ok 0x80#8 0#8)).seq = .wait ∧
    (waiting 0x09000000#32 5 (readOf 0x05#8) (.ok 0x80#8 0#8)).stepCtr.toNat = 5 ∧
    (waiting 0x09000000#32 5 (readOf 0x05#8) (.ok 0x80#8 0#8)).answers = [.ok 0x80#8 0#8] := by decide

/-- A SAMPLE at the port and its answers: `n` good ones, then one more. -/
def sampling (n : Nat) (last : Answer) : State :=
  { presenting 0x09000000#32 7 with answers := List.replicate n (.ok 0x10#8 0#8) ++ [last] }

theorem witness_SampleFailsAtTheFirstFailedRead :
    (∃ good : List (Byte × Byte), (sampling 5 (.err 2)).cfg.legal = true ∧
      (sampling 5 (.err 2)).seq = .idle ∧ (sampling 5 (.err 2)).schedule = [] ∧
      (sampling 5 (.err 2)).commands = [⟨0x09000000#32, 7⟩] ∧ good.length < 6 ∧
      (sampling 5 (.err 2)).answers = good.map (fun g => Answer.ok g.1 g.2) ++ .err 2 :: []) ∧
    (∃ good : List (Byte × Byte), good.length = 6 ∧
      (sampling 6 (.err 2)).answers = good.map (fun g => Answer.ok g.1 g.2) ++ [.err 2]) :=
  ⟨⟨List.replicate 5 (0x10#8, 0#8), by decide⟩, ⟨List.replicate 6 (0x10#8, 0#8), by decide⟩⟩

theorem witness_SingleReadsMakeOneRequestAndOneResponse :
    ∃ (s : State) (p : Presented) (i : Instr) (a : Answer), s.cfg.legal = true ∧ s.seq = .idle ∧
      s.schedule = [] ∧ s.commands = [p] ∧ decodeCmd p.word = .ok i ∧ operandOk i = true ∧
      i = .rdbus 3 ∧ s.answers = [a] :=
  ⟨{ presenting 0x01000003#32 0 with answers := [.err 1] }, ⟨0x01000003#32, 0⟩, .rdbus 3, .err 1,
    by decide⟩

theorem witness_PackIsInjectiveUnderALegalLayout :
    (⟨0, 1, 2, 3, 6, 9, 12⟩ : CfgLayout).legal = true ∧ CfgLayout.default.legal = true ∧
    (∀ f ∈ CfgLayout.default.spans, 15 < f.1 ∨ f.1 + f.2 ≤ 15) := by decide

theorem witness_DefcfgIsConfigOfTheDefaultSettings :
    Config.default.legal = true ∧ State.reset.cfg = Config.default := by decide

theorem witness_DecodeReadsBackEveryEncoding :
    (Instr.rdbus 65535).wellFormed = true ∧ (Instr.encshunt (-2147483648)).wellFormed = true ∧
    (Instr.config ⟨true, true, true, 7#3, 7#3, 7#3, 7#3⟩).wellFormed = true := by decide

theorem witness_EncodeReadsBackEveryDecoding :
    decode (.codec 0x3FFFFFFFF#34) = .ok (.encshunt (-1)) ∧
    decode (.cmd 0x03007FFF#32) = .ok (.config ⟨true, true, true, 7#3, 7#3, 7#3, 7#3⟩) := by decide

theorem witness_OpcodeRowsDecideTheCommand :
    isCommand .sample = true ∧ (PortWord.cmd 0x09000000#32).ofRow (tableRow .sample) = true ∧
    (PortWord.cmd 0x0100FFFF#32).ofRow (tableRow (.rdbus 0)) = true := by decide

theorem witness_OutcomeOfEveryCommandWord :
    (presenting 0x09000001#32 0).cfg.legal = true ∧ (presenting 0x09000001#32 0).seq = .idle ∧
    (presenting 0x09000001#32 0).schedule = [] ∧
    (presenting 0x09000001#32 0).commands = [⟨0x09000001#32, 0⟩] ∧ IllegalWord 0x09000001#32 := by
  unfold IllegalWord
  decide

/-- Each of the tests (1) to (4), at words next to legal ones. -/
theorem witness_illegalWords :
    IllegalWord 0x00000000#32 ∧ IllegalWord 0x0A000000#32 ∧ IllegalWord 0x01010000#32 ∧
    IllegalWord 0x03008000#32 := by
  unfold IllegalWord
  decide

/-- Test (5), at words next to the legal channels. -/
theorem witness_badChannelWords :
    (¬IllegalWord 0x02000004#32 ∧ BadChannelWord 0x02000004#32) ∧
    (¬IllegalWord 0x01000000#32 ∧ BadChannelWord 0x01000000#32) := by
  unfold IllegalWord BadChannelWord
  decide

/-- Legal commands. -/
theorem witness_legalWords :
    (¬IllegalWord 0x01000003#32 ∧ ¬BadChannelWord 0x01000003#32) ∧
    (¬IllegalWord 0x09000000#32 ∧ ¬BadChannelWord 0x09000000#32) := by
  unfold IllegalWord BadChannelWord
  decide

theorem witness_IllegalWordRaisesIllegalCommand :
    (presenting 0xFFFFFFFF#32 0).cfg.legal = true ∧ (presenting 0xFFFFFFFF#32 0).seq = .idle ∧
    (presenting 0xFFFFFFFF#32 0).schedule = [] ∧
    (presenting 0xFFFFFFFF#32 0).commands = [⟨0xFFFFFFFF#32, 0⟩] ∧ IllegalWord 0xFFFFFFFF#32 := by
  unfold IllegalWord
  decide

theorem witness_RaiseDoesExactlyThis : ErrorKind.busError 255 = .busError 255 := rfl

theorem witness_BusErrorCarriesTheTransportsCode :
    isCommand .sample = true ∧
    (waiting 0x09000000#32 5 (readOf 0x05#8) (.err 255)).seq = .wait ∧
    (waiting 0x09000000#32 5 (readOf 0x05#8) (.err 255)).stepCtr.toNat <
      (program (waiting 0x09000000#32 5 (readOf 0x05#8) (.err 255)).cfg .sample).length ∧
    (waiting 0x09000000#32 5 (readOf 0x05#8) (.err 255)).answers = [.err 255] ∧
    255 < 2 ^ (waiting 0x09000000#32 5 (readOf 0x05#8) (.err 255)).cfg.teWidth := by decide

/-- A state after a response, with its record in the trace. -/
def responded : State :=
  { State.reset with
    respValid := true
    respStatus := 2#3
    respErr := 9
    trace := [.accepted 0x05000000#32 0, .requested (readOf 0xFE#8), .answered (.err 9),
      .responded (.error (.busError 9))] }

theorem witness_ResponseRegistersShowTheLastResponse :
    ResponseShown responded ∧ ∃ t, step responded = .next t :=
  ⟨⟨rfl, rfl, rfl⟩, ⟨_, rfl⟩⟩

theorem witness_ResponseRegistersKeepTheirValue :
    (∃ t, step (issuing 0x05000000#32 0) = .next t ∧ t.respData = 0#32) ∧
    (∃ t, step { responded with commands := [⟨0x05000000#32, 0⟩] } = .next t ∧
      t.respValid = false ∧ t.respErr = 9) :=
  ⟨⟨_, rfl, rfl⟩, ⟨_, rfl, rfl, rfl⟩⟩

theorem witness_ResetEventGoesToIdle :
    ∃ s : State, s.cfg.legal = true ∧ s.seq = .wait ∧ s.schedule = [.reset] :=
  ⟨{ waiting 0x05000000#32 0 (readOf 0xFE#8) (.err 1) with schedule := [.reset] }, by decide⟩

theorem witness_ResetDiscardsTheOutstandingAnswer :
    ∃ s : State, s.cfg.legal = true ∧ s.pending = some (readOf 0xFE#8) ∧ s.schedule = [.reset] :=
  ⟨{ waiting 0x05000000#32 0 (readOf 0xFE#8) (.err 1) with schedule := [.reset] }, by decide⟩

theorem witness_StepRunsTheDecodedInstruction :
    ((presenting 0x05000000#32 0).cfg.legal = true ∧ (presenting 0x05000000#32 0).schedule = [] ∧
      (presenting 0x05000000#32 0).seq = .idle ∧
      (presenting 0x05000000#32 0).commands = [⟨0x05000000#32, 0⟩] ∧
      decode (.cmd 0x05000000#32) = .ok .rdmfr) ∧
    (∃ s : State, s.cfg.legal = true ∧ s.schedule = [.sequencer, .reset] ∧ s.seq ≠ .idle ∧
      decode (.cmd s.cmdLatch) = .ok .sample) ∧
    ((driving 0b11#2 0x80000000#32).cfg.legal = true ∧
      (driving 0b11#2 0x80000000#32).schedule = [.codec 0b11#2 0x80000000#32] ∧
      decode (.codec (codecWord 0b11#2 0x80000000#32)) = .ok (.encshunt (-2147483648))) :=
  ⟨by decide,
    ⟨{ issuing 0x09000000#32 5 with schedule := [.sequencer, .reset] }, by decide⟩, by decide⟩

theorem witness_BusySequencerTakesNoCommand :
    ∃ s t : State, s.seq ≠ .idle ∧ s.commands = [⟨0x04000000#32, 0⟩] ∧ step s = .next t :=
  ⟨{ issuing 0x05000000#32 0 with commands := [⟨0x04000000#32, 0⟩] }, _, by decide, rfl, rfl⟩

theorem witness_BusyStepIgnoresTheCommandPort :
    ∃ t : State, (issuing 0x05000000#32 0).seq ≠ .idle ∧
      step (issuing 0x05000000#32 0) = .next t :=
  ⟨_, by decide, rfl⟩

/-- A sequencer that waits for the answer of step 5 of SAMPLE. -/
def waitingInSample : State :=
  { State.reset with
    seq := .wait
    cmdLatch := 0x09000000#32
    stepCtr := 5#3
    pending := some (readOf 0x05#8) }

theorem witness_waitingInSample_inv : Inv waitingInSample where
  legal := by decide
  tsLatch := by decide
  respErr := by decide
  respTs := by decide
  latch := fun _ => ⟨.sample, by decide, rfl, by decide⟩
  pending := fun _ i h => by
    have hi : i = .sample := by
      have hs : decodeCmd waitingInSample.cmdLatch = .ok .sample := by decide
      rw [hs] at h
      injection h with h
      exact h.symm
    subst hi
    rfl
  noPending := fun h => absurd rfl h
  valid := fun h => by cases h
  codec := by decide

theorem witness_BlockWaitsForItsEvents :
    (State.reset.cfg.legal = true ∧ State.reset.schedule = [] ∧ State.reset.seq = .idle ∧
      State.reset.commands = []) ∧
    (Inv waitingInSample ∧ waitingInSample.schedule = [] ∧ waitingInSample.seq = .wait ∧
      waitingInSample.answers = []) :=
  ⟨by decide, witness_waitingInSample_inv, rfl, rfl, rfl⟩

theorem witness_IllegalConfigurationIsRefused :
    ∃ s : State, s.cfg.legal = false ∧ s.seq = .idle :=
  ⟨{ State.reset with cfg := { Config.default with busLsbUv := 5 } }, by decide⟩

theorem witness_NoStepChangesAConstant : ∃ t, step (driving 0b00#2 8#32) = .next t := ⟨_, rfl⟩

theorem witness_OnlyMappedRegistersAreReached :
    ∃ t, step (issuing 0x03007127#32 0) = .next t ∧
      t.trace = (issuing 0x03007127#32 0).trace ++
        [.requested (.write 0x40#7 0x00#8 2#2 0x71#8 0x27#8)] :=
  ⟨_, rfl, by decide⟩

theorem witness_OnlySampleWritesItsRegisters :
    (∃ t, step (presenting 0x09000000#32 3) = .next t ∧ t.tsLatch = 3) ∧
    (∃ t, step (waiting 0x09000000#32 0 (readOf 0x02#8) (.ok 0x10#8 0#8)) = .next t ∧
      t.sampleBuf.bus1 = 512000#32) :=
  ⟨⟨_, rfl, by decide⟩, ⟨_, rfl, by decide⟩⟩

theorem witness_EveryStepGoesOnAndKeepsTheInvariant : Inv waitingInSample :=
  witness_waitingInSample_inv

theorem witness_EventsStayInOrder : TraceInOrder responded ∧ ∃ t, step responded = .next t :=
  ⟨rfl, ⟨_, rfl⟩⟩

theorem witness_EventsOfACommandAreThoseOfTheBigStep :
    (sampling 5 (.ok 0x80#8 0#8)).cfg.legal = true ∧ (sampling 5 (.ok 0x80#8 0#8)).seq = .idle ∧
    (sampling 5 (.ok 0x80#8 0#8)).schedule = [] ∧
    (sampling 5 (.ok 0x80#8 0#8)).commands = [⟨0x09000000#32, 7⟩] ∧
    ∃ events, bigStep (sampling 5 (.ok 0x80#8 0#8)).cfg ⟨0x09000000#32, 7⟩
      (sampling 5 (.ok 0x80#8 0#8)).answers = some (events, []) ∧ requestCount events = 6 :=
  ⟨by decide, rfl, rfl, rfl, _, rfl, rfl⟩

theorem witness_EveryCommandEndsWhenTheTransportAnswers :
    (sampling 5 (.err 2)).cfg.legal = true ∧ (sampling 5 (.err 2)).seq = .idle ∧
    (sampling 5 (.err 2)).schedule = [] ∧
    (sampling 5 (.err 2)).commands = [⟨0x09000000#32, 7⟩] ∧
    6 ≤ (sampling 5 (.err 2)).answers.length := by decide

/-- Two busy states that differ in what is dead: the response registers, the trace, and the slots that the
SAMPLE in progress has not written. -/
theorem witness_AStepDependsOnLiveStateOnly :
    Agree waitingInSample { waitingInSample with
      respData := 1#32
      draws := 3
      trace := [.reset]
      sampleBuf := { waitingInSample.sampleBuf with shunt3 := 9#32 } } ∧
    ∃ t, step waitingInSample = .next t :=
  ⟨⟨rfl, rfl, rfl, rfl, rfl, rfl, fun _ => rfl, fun _ => rfl, fun _ _ => rfl, fun _ _ => by decide⟩,
    ⟨_, rfl⟩⟩

theorem witness_NothingCarriesOverToTheNextCommand :
    ∃ s s' : State, s.seq = .idle ∧ s.pending = none ∧ s.respStatus = 2#3 ∧
      s.commands = [⟨0x05000000#32, 0⟩] ∧ Host.Core.run Sys2Proof.core 3 s = .next s' :=
  ⟨{ responded with commands := [⟨0x05000000#32, 0⟩], answers := [.ok 1#8 2#8] }, _,
    rfl, rfl, rfl, rfl, rfl⟩

end Sys2Proof.Tests
end

section
/-! PROOFS. The configuration word as a list of placed fields (42_configuration.md rules R111, R115):
`pack` read back field by field under a legal layout. -/

namespace Sys2Proof

/-- One field of the configuration word: its value and the position the layout gives it. -/
structure PlacedField where
  width : Nat
  value : BitVec width
  pos   : Nat

/-- Position and width of a placed field, as `CfgLayout.spans` lists them. -/
def PlacedField.span (f : PlacedField) : Nat × Nat := (f.pos, f.width)

/-- Two spans share no bit: the relation `CfgLayout.legal` asks of every pair. -/
def SpansApart (f g : Nat × Nat) : Prop := f.1 + f.2 ≤ g.1 ∨ g.1 + g.2 ≤ f.1

/-- The word that holds each field of a list at its position. -/
def packFields : List PlacedField → Raw
  | [] => 0#16
  | f :: fs => placeField f.value f.pos ||| packFields fs

/-- The seven fields of a settings record under a layout, in the order of `CfgLayout.spans`. -/
def CfgLayout.fields (l : CfgLayout) (s : Settings) : List PlacedField :=
  [⟨1, BitVec.ofBool s.en1, l.en1⟩, ⟨1, BitVec.ofBool s.en2, l.en2⟩, ⟨1, BitVec.ofBool s.en3, l.en3⟩,
    ⟨3, s.avg, l.avg⟩, ⟨3, s.vbusCt, l.vbusCt⟩, ⟨3, s.vshCt, l.vshCt⟩, ⟨3, s.mode, l.mode⟩]

theorem CfgLayout.fields_map_span (l : CfgLayout) (s : Settings) :
    (l.fields s).map PlacedField.span = l.spans := rfl

theorem pack_eq_packFields (l : CfgLayout) (s : Settings) : pack l s = packFields (l.fields s) := by
  simp [pack, CfgLayout.fields, packFields, BitVec.or_assoc]

/-- A bit that no field covers is 0. -/
theorem packFields_getLsbD_uncovered {fs : List PlacedField} {k : Nat}
    (h : ∀ f ∈ fs, k < f.pos ∨ f.pos + f.width ≤ k) : (packFields fs).getLsbD k = false := by
  induction fs with
  | nil => simp [packFields]
  | cons f fs ih =>
    obtain ⟨hf, hfs⟩ := List.forall_mem_cons.mp h
    simp [packFields, placeField_outside f.value hf, ih hfs]

/-- Fields that share no bit are each found at their position. -/
theorem packFields_getLsbD_inside {fs : List PlacedField} {f : PlacedField} {k : Nat}
    (apart : (fs.map PlacedField.span).Pairwise SpansApart) (mem : f ∈ fs)
    (fits : f.pos + f.width ≤ 16) (hk : k < f.width) :
    (packFields fs).getLsbD (f.pos + k) = f.value.getLsbD k := by
  induction fs with
  | nil => simp at mem
  | cons g gs ih =>
    rw [List.map_cons, List.pairwise_cons] at apart
    obtain ⟨headApart, tailApart⟩ := apart
    have gApart : ∀ e ∈ gs, g.pos + g.width ≤ e.pos ∨ e.pos + e.width ≤ g.pos :=
      fun e he => headApart e.span (List.mem_map_of_mem he)
    rw [packFields, BitVec.getLsbD_or]
    rcases List.mem_cons.mp mem with rfl | memTail
    · have tail : (packFields gs).getLsbD (f.pos + k) = false :=
        packFields_getLsbD_uncovered fun e he => by have := gApart e he; omega
      rw [placeField_inside f.value fits hk, tail, Bool.or_false]
    · have head : (placeField g.value g.pos).getLsbD (f.pos + k) = false :=
        placeField_outside g.value (by have := gApart f memTail; omega)
      rw [head, ih tailApart memTail, Bool.false_or]

/-- R115: the fields lie in the word and no two of them share a bit. -/
theorem CfgLayout.legal_iff (l : CfgLayout) :
    l.legal = true ↔ (∀ f ∈ l.spans, f.1 + f.2 ≤ 16) ∧ l.spans.Pairwise SpansApart := by
  rw [CfgLayout.legal, Bool.and_eq_true, List.all_eq_true, decide_eq_true_iff]
  simp only [decide_eq_true_iff]
  exact Iff.rfl

/-- R115: under a legal layout the packed word shows each field at its position. -/
theorem pack_extract_field {l : CfgLayout} (h : l.legal = true) (s : Settings) {f : PlacedField}
    (mem : f ∈ l.fields s) : (pack l s).extractLsb' f.pos f.width = f.value := by
  obtain ⟨fits, apart⟩ := l.legal_iff.mp h
  rw [← l.fields_map_span s] at fits apart
  refine BitVec.eq_of_getLsbD_eq fun k hk => ?_
  rw [BitVec.getLsbD_extractLsb', pack_eq_packFields,
    packFields_getLsbD_inside apart mem (fits f.span (List.mem_map_of_mem mem)) hk]
  simp [hk]

/-- R115 for the one-bit fields. -/
theorem pack_getLsbD_flag {l : CfgLayout} (h : l.legal = true) (s : Settings) {b : Bool} {pos : Nat}
    (mem : ⟨1, BitVec.ofBool b, pos⟩ ∈ l.fields s) : (pack l s).getLsbD pos = b := by
  have bit := congrArg (fun v : BitVec 1 => v.getLsbD 0) (pack_extract_field h s mem)
  simpa using bit

/-- R115: under a legal layout `unpack` reads back what `pack` wrote. -/
theorem unpack_pack {l : CfgLayout} (h : l.legal = true) (s : Settings) : unpack l (pack l s) = s := by
  have en1 : (pack l s).getLsbD l.en1 = s.en1 := pack_getLsbD_flag h s (by simp [CfgLayout.fields])
  have en2 : (pack l s).getLsbD l.en2 = s.en2 := pack_getLsbD_flag h s (by simp [CfgLayout.fields])
  have en3 : (pack l s).getLsbD l.en3 = s.en3 := pack_getLsbD_flag h s (by simp [CfgLayout.fields])
  have avg : (pack l s).extractLsb' l.avg 3 = s.avg :=
    pack_extract_field h s (f := ⟨3, s.avg, l.avg⟩) (by simp [CfgLayout.fields])
  have vbusCt : (pack l s).extractLsb' l.vbusCt 3 = s.vbusCt :=
    pack_extract_field h s (f := ⟨3, s.vbusCt, l.vbusCt⟩) (by simp [CfgLayout.fields])
  have vshCt : (pack l s).extractLsb' l.vshCt 3 = s.vshCt :=
    pack_extract_field h s (f := ⟨3, s.vshCt, l.vshCt⟩) (by simp [CfgLayout.fields])
  have mode : (pack l s).extractLsb' l.mode 3 = s.mode :=
    pack_extract_field h s (f := ⟨3, s.mode, l.mode⟩) (by simp [CfgLayout.fields])
  simp only [unpack, en1, en2, en3, avg, vbusCt, vshCt, mode]

end Sys2Proof
end

section
/-! PROOFS. What makes a configuration legal (rules R8, R35, R114, R115), and the refusal of every
other one. -/

namespace Sys2Proof

/-- R8: the range of one scale constant. -/
theorem lsbInRange_iff (lsb : Nat) : lsbInRange lsb = true ↔ 1 ≤ lsb ∧ lsb ≤ 524287 := by
  simp [lsbInRange]

/-- R35: the address is injective on the ten used registers. -/
theorem Config.addressesDistinct_iff (c : Config) :
    c.addressesDistinct = true ↔
      ∀ r r', r ∈ usedRegs → r' ∈ usedRegs → c.regAddr r = c.regAddr r' → r = r' := by
  have usedNodup : usedRegs.Nodup := by decide
  rw [Config.addressesDistinct, decide_eq_true_iff, List.nodup_map_iff_inj_on usedNodup]
  exact ⟨fun h r r' hr hr' => h r hr r' hr', fun h r hr r' hr' => h r r' hr hr'⟩

/-- R114: under a legal layout the test of `DEFAULT_CONFIG`, made on its `unpack`, finds the settings
record whenever there is one. -/
theorem Config.defaultConfigLegal_iff {c : Config} (h : c.layout.legal = true) :
    c.defaultConfigLegal = true ↔
      ∃ s0 : Settings, s0.en1 = true ∧ s0.en2 = true ∧ s0.en3 = true ∧
        pack c.layout s0 = c.defaultConfig := by
  simp only [Config.defaultConfigLegal, Bool.and_eq_true, decide_eq_true_iff, and_assoc]
  constructor
  · intro enabled
    exact ⟨unpack c.layout c.defaultConfig, enabled⟩
  · rintro ⟨s0, en1, en2, en3, packed⟩
    rw [← packed, unpack_pack h]
    exact ⟨en1, en2, en3, rfl⟩

/-- A configuration is legal exactly under the conditions of rules R8, R35, R115 and R114. -/
theorem Config.legal_iff (c : Config) :
    c.legal = true ↔
      ((1 ≤ c.busLsbUv ∧ c.busLsbUv ≤ 524287) ∧ (1 ≤ c.shuntLsbUv ∧ c.shuntLsbUv ≤ 524287) ∧
        c.busLsbUv ≠ c.shuntLsbUv) ∧
      (∀ r r', r ∈ usedRegs → r' ∈ usedRegs → c.regAddr r = c.regAddr r' → r = r') ∧
      c.layout.legal = true ∧
      ∃ s0 : Settings, s0.en1 = true ∧ s0.en2 = true ∧ s0.en3 = true ∧
        pack c.layout s0 = c.defaultConfig := by
  rw [← lsbInRange_iff, ← lsbInRange_iff, ← c.addressesDistinct_iff,
    ← and_congr_right (fun layout => Config.defaultConfigLegal_iff layout)]
  simp only [Config.legal, Bool.and_eq_true, decide_eq_true_iff, and_assoc]

/-- R8: the step refuses an illegal configuration, whatever the state. -/
theorem Machine.step_of_illegal {s : Machine.State} (h : s.cfg.legal = false) :
    Machine.step s = .refused .illegalConfiguration := by
  rcases Machine.step_cases s with ⟨-, refused⟩ | ⟨legal, -⟩ | ⟨legal, -⟩ | ⟨legal, -⟩
  · exact refused
  all_goals exact absurd legal (by simp [h])

/-- Settles O44: the step tests the configuration first, and `pack` is undone by `unpack` under a legal
layout, so the test of `DEFAULT_CONFIG` decides rule R114. -/
theorem illegalConfigurationIsRefused : Obligations.IllegalConfigurationIsRefused :=
  ⟨fun _ illegal => Machine.step_of_illegal illegal, Config.legal_iff⟩

end Sys2Proof
end

section
/-! PROOFS. Everything that one step can do, said once (10_state.md rules R16, R24, R160): the events of the
sequencer as a relation between a state and the next, and the step as exactly this relation. -/

namespace Sys2Proof.Machine

open Safety

/-- The error that ACCEPT raises for a command word, by the tests of rule R52; none for a legal word. -/
def acceptError (w : Word) : Option ErrorKind :=
  match decodeCmd w with
  | .error _ => some .illegalCommand
  | .ok i => checkOf i

theorem acceptError_illegal {w : Word} {e} (h : decodeCmd w = .error e) :
    acceptError w = some .illegalCommand := by
  simp [acceptError, h]

theorem acceptError_ok {w : Word} {i} (h : decodeCmd w = .ok i) : acceptError w = checkOf i := by
  simp [acceptError, h]

/-- Only a word that decodes to a command with a valid operand raises nothing. -/
theorem acceptError_none_iff {w : Word} :
    acceptError w = none ↔ ∃ i, decodeCmd w = .ok i ∧ operandOk i = true := by
  cases hd : decodeCmd w with
  | error e => simp [acceptError_illegal hd]
  | ok i => simp [acceptError_ok hd, checkOf]

/-- The state after the ISSUE of a transaction: its request is outstanding. -/
def issued (x : Transaction) (s : State) : State :=
  { s with
    pending := some (requestOf s.cfg x)
    seq := .wait
    trace := s.trace ++ [.requested (requestOf s.cfg x)] }

/-- `SAMPLE_BUF` after the capture of a raw value: SAMPLE writes the slot of `STEP`, no other command
writes the buffer (R12). -/
def capturedBuf (i : Instr) (raw : Raw) (s : State) : Voltages := (captureOf i raw s).sampleBuf

theorem capturedBuf_sample (raw : Raw) (s : State) :
    capturedBuf .sample raw s =
      s.sampleBuf.setSlot s.stepCtr.toNat (sampleDecode s.cfg s.stepCtr.toNat raw) := rfl

theorem capturedBuf_of_ne {i : Instr} (h : i ≠ .sample) (raw : Raw) (s : State) :
    capturedBuf i raw s = s.sampleBuf := by
  cases i
  case sample => exact absurd rfl h
  all_goals rfl

/-- The state after a successful answer is taken from the port and its value captured. -/
def takeOk (i : Instr) (byte0 byte1 : Byte) (rest : List Answer) (s : State) : State :=
  { takeAnswer (.ok byte0 byte1) rest s with sampleBuf := capturedBuf i (rawOfBytes byte0 byte1) s }

/-- The state after a successful answer before the last step. -/
def wentOn (i : Instr) (byte0 byte1 : Byte) (rest : List Answer) (s : State) : State :=
  { takeOk i byte0 byte1 rest s with stepCtr := s.stepCtr + 1#3, seq := .issue }

theorem captureOf_takeAnswer (i : Instr) (byte0 byte1 : Byte) (rest : List Answer) (s : State) :
    captureOf i (rawOfBytes byte0 byte1) (takeAnswer (.ok byte0 byte1) rest s) =
      takeOk i byte0 byte1 rest s := by
  cases i <;> rfl

theorem answerOk_captured_last {prog : List Transaction} {i : Instr} {s : State} (byte0 byte1 rest)
    (h : s.stepCtr.toNat + 1 = prog.length) :
    answerOk prog (captureOf i) (finishOf i) (rawOfBytes byte0 byte1)
        (takeAnswer (.ok byte0 byte1) rest s) =
      deliver (.ok (finishOf i (rawOfBytes byte0 byte1) (takeOk i byte0 byte1 rest s)))
        (takeOk i byte0 byte1 rest s) := by
  rw [answerOk_last (by exact h), captureOf_takeAnswer, respondOk_eq_deliver]

theorem answerOk_captured_more {prog : List Transaction} {i : Instr} {s : State} (byte0 byte1 rest)
    (h : s.stepCtr.toNat + 1 ≠ prog.length) :
    answerOk prog (captureOf i) (finishOf i) (rawOfBytes byte0 byte1)
        (takeAnswer (.ok byte0 byte1) rest s) =
      wentOn i byte0 byte1 rest s := by
  rw [answerOk_more (by exact h), captureOf_takeAnswer]
  rfl

/-- No command has more than six steps (R11), so `STEP` never overflows its three bits. -/
theorem program_length_le (c : Config) (i : Instr) : (program c i).length ≤ 6 := by
  unfold program
  split <;> simp

/-- A command with a valid operand has a step. -/
theorem program_length_pos {i : Instr} (c : Config) (hi : isCommand i = true)
    (ho : operandOk i = true) : 0 < (program c i).length := by
  cases i with
  | rdbus ch => obtain rfl | rfl | rfl := validChannel_cases ho <;> simp [program]
  | rdshunt ch => obtain rfl | rfl | rfl := validChannel_cases ho <;> simp [program]
  | decbus | decshunt | encbus | encshunt => cases hi
  | _ => simp [program]

theorem stepCtr_succ {k : BitVec 3} {n : Nat} (h : k.toNat + 1 < n) (hn : n ≤ 6) :
    (k + 1#3).toNat = k.toNat + 1 := by
  rw [BitVec.toNat_add, BitVec.toNat_ofNat]
  omega

theorem opcodeOf_sample {b : BitVec 8} (h : opcodeOf b = some .sample) : b = 0x09#8 := by
  unfold opcodeOf at h
  split at h
  case h_9 hn => exact BitVec.eq_of_toNat_eq hn
  all_goals cases h

/-- SAMPLE has one word (R53). -/
theorem decodeCmd_sample {w : Word} (h : decodeCmd w = .ok .sample) : w = 0x09000000#32 := by
  unfold decodeCmd at h
  split at h
  · cases h
  next c hop =>
  split at h
  case isFalse => cases h
  next hres =>
  have hw := cmdWord_of_fields hres
  cases c <;> simp only [commandInstr, Except.ok.injEq, reduceCtorEq] at h
  case config => split at h <;> cases h
  case sample =>
    obtain ⟨hz, -⟩ := withoutOperand_ok h
    rw [← hw, hz, opcodeOf_sample hop]
    rfl
  all_goals (obtain ⟨-, hne⟩ := withoutOperand_ok h; cases hne)

/-- One event of the sequencer (R16), with all that enables it, or a wait for one (log 4). -/
inductive SequencerEvent (s : State) : State → Prop
  /-- IDLE without a command. -/
  | waitsForCommand (hq : s.seq = .idle) (hc : s.commands = []) : SequencerEvent s s
  /-- ACCEPT of a word that fails a test of R52. -/
  | rejects {p cs k} (hq : s.seq = .idle) (hc : s.commands = p :: cs)
      (hk : acceptError p.word = some k) :
      SequencerEvent s (deliver (.error k) (openCommand p cs s))
  /-- ACCEPT of a legal word. -/
  | starts {p cs i} (hq : s.seq = .idle) (hc : s.commands = p :: cs)
      (hd : decodeCmd p.word = .ok i) (ho : operandOk i = true) :
      SequencerEvent s (startCommand p (decide (i = .sample)) (openCommand p cs s))
  /-- ISSUE. -/
  | issues {i x} (hq : s.seq = .issue) (hd : decodeCmd s.cmdLatch = .ok i)
      (hx : (program s.cfg i)[s.stepCtr.toNat]? = some x) :
      SequencerEvent s (issued x s)
  /-- WAIT without an answer. -/
  | waitsForAnswer {i} (hq : s.seq = .wait) (hd : decodeCmd s.cmdLatch = .ok i)
      (hk : s.stepCtr.toNat < (program s.cfg i).length) (ha : s.answers = []) : SequencerEvent s s
  /-- ANSWER with an error. -/
  | fails {i code rest} (hq : s.seq = .wait) (hd : decodeCmd s.cmdLatch = .ok i)
      (hk : s.stepCtr.toNat < (program s.cfg i).length) (ha : s.answers = .err code :: rest) :
      SequencerEvent s
        (deliver (.error (.busError (tePort s.cfg code))) (takeAnswer (.err code) rest s))
  /-- ANSWER with a value, before the last step. -/
  | goesOn {i byte0 byte1 rest} (hq : s.seq = .wait) (hd : decodeCmd s.cmdLatch = .ok i)
      (hk : s.stepCtr.toNat + 1 < (program s.cfg i).length)
      (ha : s.answers = .ok byte0 byte1 :: rest) :
      SequencerEvent s (wentOn i byte0 byte1 rest s)
  /-- ANSWER with a value, at the last step. -/
  | ends {i byte0 byte1 rest} (hq : s.seq = .wait) (hd : decodeCmd s.cmdLatch = .ok i)
      (hk : s.stepCtr.toNat + 1 = (program s.cfg i).length)
      (ha : s.answers = .ok byte0 byte1 :: rest) :
      SequencerEvent s
        (deliver (.ok (finishOf i (rawOfBytes byte0 byte1) (takeOk i byte0 byte1 rest s)))
          (takeOk i byte0 byte1 rest s))

/-- ACCEPT answers an event of the relation. -/
theorem sequencerEvent_of_accept {s t : State} {p cs i} (hq : s.seq = .idle)
    (hc : s.commands = p :: cs) (hd : decodeCmd p.word = .ok i)
    (h : acceptEvent (checkOf i) (decide (i = .sample)) s = .next t) : SequencerEvent s t := by
  cases ho : operandOk i with
  | false =>
    have hk : checkOf i = some .invalidChannel := by simp [checkOf, ho]
    rw [hk, acceptEvent_raise hc] at h
    cases h
    exact .rejects hq hc ((acceptError_ok hd).trans hk)
  | true =>
    have hk : checkOf i = none := by simp [checkOf, ho]
    rw [hk, acceptEvent_start hc] at h
    cases h
    exact .starts hq hc hd ho

/-- ANSWER answers an event of the relation. -/
theorem sequencerEvent_of_answer {s t : State} {i} (hq : s.seq = .wait)
    (hd : decodeCmd s.cmdLatch = .ok i)
    (h : answerEvent (program s.cfg i) (captureOf i) (finishOf i) s = .next t) :
    SequencerEvent s t := by
  obtain ⟨x, hx, ⟨ha, rfl⟩ | ⟨code, rest, ha, rfl⟩ | ⟨byte0, byte1, rest, ha, rfl⟩⟩ :=
    answerEvent_cases h
  all_goals have hk := (List.getElem?_eq_some_iff.mp hx).1
  · exact .waitsForAnswer hq hd hk ha
  · exact .fails hq hd hk ha
  · by_cases hlast : s.stepCtr.toNat + 1 = (program s.cfg i).length
    · rw [answerOk_captured_last _ _ _ hlast]
      exact .ends hq hd hlast ha
    · rw [answerOk_captured_more _ _ _ hlast]
      exact .goesOn hq hd (by omega) ha

/-- The sequencer's turn runs exactly the events of the relation. -/
theorem sequencerEvent_iff {s t : State} :
    runFetched (fetchSequencer s) = .next t ↔ SequencerEvent s t := by
  constructor
  · intro h
    obtain ⟨hq, hc, rfl⟩ | ⟨p, cs, e, hq, hc, hd, rfl⟩ | ⟨p, cs, i, hq, hc, hd, h⟩ | ⟨i, hq, hd, h⟩ |
      ⟨i, hq, hd, h⟩ := sequencer_cases h
    · exact .waitsForCommand hq hc
    · exact .rejects hq hc (acceptError_illegal hd)
    · exact sequencerEvent_of_accept hq hc hd h
    · obtain ⟨x, hx, rfl⟩ := issueEvent_cases h
      exact .issues hq hd hx
    · exact sequencerEvent_of_answer hq hd h
  · intro h
    have runs {i : Instr} (hq : s.seq ≠ .idle) (hd : decodeCmd s.cmdLatch = .ok i) :
        runFetched (fetchSequencer s) = commandEvent (program s.cfg i) (checkOf i)
          (decide (i = .sample)) (captureOf i) (finishOf i) s := by
      rw [fetchSequencer_busy_ok hq hd, runFetched, exec_command (decodeCmd_isCommand hd)]
    cases h with
    | waitsForCommand hq hc => rw [fetchSequencer_idle_none hq hc, runFetched]
    | @rejects p cs k hq hc hk =>
      cases hd : decodeCmd p.word with
      | error e =>
        rw [acceptError_illegal hd] at hk
        cases hk
        rw [fetchSequencer_idle_error hq hc hd]
        rfl
      | ok i =>
        rw [acceptError_ok hd] at hk
        rw [fetchSequencer_idle_ok hq hc hd, runFetched, exec_command (decodeCmd_isCommand hd),
          commandEvent_idle hq, hk, acceptEvent_raise hc, raise_eq_deliver]
    | starts hq hc hd ho =>
      rw [fetchSequencer_idle_ok hq hc hd, runFetched, exec_command (decodeCmd_isCommand hd),
        commandEvent_idle hq, checkOf, if_pos ho, acceptEvent_start hc]
    | issues hq hd hx =>
      rw [runs (by simp [hq]) hd, commandEvent_issue hq, issueEvent_sends hx, issued]
    | waitsForAnswer hq hd hk ha =>
      rw [runs (by simp [hq]) hd, commandEvent_wait hq,
        answerEvent_waits (List.getElem?_eq_getElem hk) ha]
    | fails hq hd hk ha =>
      rw [runs (by simp [hq]) hd, commandEvent_wait hq,
        answerEvent_err (List.getElem?_eq_getElem hk) ha, raise_eq_deliver]
    | goesOn hq hd hk ha =>
      rw [runs (by simp [hq]) hd, commandEvent_wait hq,
        answerEvent_ok (List.getElem?_eq_getElem (by omega)) ha, answerOk_captured_more _ _ _ hk.ne]
    | ends hq hd hk ha =>
      rw [runs (by simp [hq]) hd, commandEvent_wait hq,
        answerEvent_ok (List.getElem?_eq_getElem (by omega)) ha, answerOk_captured_last _ _ _ hk]

/-- The schedule gives the turn to the sequencer and goes on with `rest`. -/
def SequencerTurn (s : State) (rest : List Turn) : Prop :=
  s.schedule = .sequencer :: rest ∨ s.schedule = [] ∧ rest = []

/-- One step of the machine: RESET, a use of the codec port, or the sequencer's turn. -/
inductive StepEvent (s : State) : State → Prop
  | reset {rest} (hs : s.schedule = .reset :: rest) :
      StepEvent s (resetEvent { s with schedule := rest })
  | codec {op arg rest} (hs : s.schedule = .codec op arg :: rest) :
      StepEvent s (driveCodec op arg (codecPort s.cfg op arg) { s with schedule := rest })
  | sequencer {rest t} (hs : SequencerTurn s rest)
      (h : SequencerEvent { s with schedule := rest } t) : StepEvent s t

theorem withSchedule_nil {s : State} (h : s.schedule = []) : { s with schedule := [] } = s := by
  rw [← h]

theorem step_reset {s : State} {rest} (hl : s.cfg.legal = true) (hs : s.schedule = .reset :: rest) :
    step s = .next (resetEvent { s with schedule := rest }) := by
  simp [step, fetch, hl, hs, runFetched]

theorem step_codec {s : State} {op arg rest} (hl : s.cfg.legal = true)
    (hs : s.schedule = .codec op arg :: rest) :
    step s = exec (decodeCodec (codecWord op arg)) { s with schedule := rest } := by
  simp [step, fetch, hl, hs, runFetched]

theorem step_sequencer {s : State} {rest} (hl : s.cfg.legal = true) (hs : SequencerTurn s rest) :
    step s = runFetched (fetchSequencer { s with schedule := rest }) := by
  obtain hs | ⟨hs, rfl⟩ := hs
  · simp [step, fetch, hl, hs]
  · simp [step, fetch, hl, hs, withSchedule_nil hs]

/-- Everything that a step can do, and when it does it. -/
theorem step_iff {s t : State} : step s = .next t ↔ s.cfg.legal = true ∧ StepEvent s t := by
  constructor
  · intro h
    obtain ⟨hl, ⟨rest, hs, rfl⟩ | ⟨op, arg, rest, hs, rfl⟩ | ⟨rest, hs, h⟩⟩ := step_next_cases h
    · exact ⟨hl, .reset hs⟩
    · exact ⟨hl, .codec hs⟩
    · have turn : SequencerTurn s rest := hs.symm.imp_right fun ⟨hr, hn⟩ => ⟨hr.trans hn, hn⟩
      exact ⟨hl, .sequencer turn (sequencerEvent_iff.mp h)⟩
  · rintro ⟨hl, h⟩
    cases h with
    | reset hs => exact step_reset hl hs
    | codec hs => rw [step_codec hl hs, exec_decodeCodec]
    | sequencer hs h => rw [step_sequencer hl hs, sequencerEvent_iff.mpr h]

theorem StepEvent.of_step {s t : State} (h : step s = .next t) : StepEvent s t := (step_iff.mp h).2

/-- A turn of the sequencer in a state without a schedule. -/
theorem step_of_sequencerEvent {s t : State} (hl : s.cfg.legal = true) (hs : s.schedule = [])
    (h : SequencerEvent s t) : step s = .next t := by
  refine step_iff.mpr ⟨hl, .sequencer (.inr ⟨hs, rfl⟩) ?_⟩
  rwa [withSchedule_nil hs]

end Sys2Proof.Machine
end

section
/-! PROOFS. What each step leaves unchanged (10_state.md rules R12 to R14, R17, R18, R21, R24), and the turns
of the schedule: for each rule first the sequencer's events, then the step. -/

namespace Sys2Proof.Machine

open Safety

variable {s t : State}

theorem SequencerEvent.cfg_eq (h : SequencerEvent s t) : t.cfg = s.cfg := by
  cases h <;> rfl

theorem StepEvent.cfg_eq (h : StepEvent s t) : t.cfg = s.cfg := by
  cases h with
  | reset => simp
  | codec => rfl
  | sequencer _ h => exact h.cfg_eq

/-- R24: no event of the sequencer passes through the codec port. -/
theorem SequencerEvent.codec_eq (h : SequencerEvent s t) :
    t.codecOp = s.codecOp ∧ t.codecIn = s.codecIn ∧ t.codecOut = s.codecOut := by
  cases h <;> exact ⟨rfl, rfl, rfl⟩

/-- R17: only an ACCEPT takes a command, and only in IDLE. -/
theorem SequencerEvent.commands_of_busy (h : SequencerEvent s t) (hq : s.seq ≠ .idle) :
    t.commands = s.commands := by
  cases h with
  | waitsForCommand hq' | rejects hq' | starts hq' => exact absurd hq' hq
  | _ => rfl

/-- R14: only an ACCEPT writes `CMD_LATCH`. -/
theorem SequencerEvent.cmdLatch_of_busy (h : SequencerEvent s t) (hq : s.seq ≠ .idle) :
    t.cmdLatch = s.cmdLatch := by
  cases h with
  | waitsForCommand hq' | rejects hq' | starts hq' => exact absurd hq' hq
  | _ => rfl

/-- R17: a busy sequencer makes no ACCEPT event. -/
theorem SequencerEvent.no_accept_of_busy (h : SequencerEvent s t) (hq : s.seq ≠ .idle) :
    ∃ events, t.trace = s.trace ++ events ∧ ∀ w ts, .accepted w ts ∉ events := by
  cases h with
  | waitsForCommand hq' | rejects hq' | starts hq' => exact absurd hq' hq
  | waitsForAnswer => exact ⟨[], by simp⟩
  | issues => exact ⟨_, rfl, by simp⟩
  | fails => exact ⟨_, List.append_assoc .., by simp⟩
  | goesOn => exact ⟨_, rfl, by simp⟩
  | ends => exact ⟨_, List.append_assoc .., by simp⟩

/-- R14: an event of a busy sequencer does not read the command port. -/
theorem SequencerEvent.withCommands (h : SequencerEvent s t) (hq : s.seq ≠ .idle)
    (cs : List Presented) : SequencerEvent { s with commands := cs } { t with commands := cs } := by
  have buf (i : Instr) (raw : Raw) :
      capturedBuf i raw { s with commands := cs } = capturedBuf i raw s := by cases i <;> rfl
  have take (i : Instr) (byte0 byte1 : Byte) (rest : List Answer) :
      takeOk i byte0 byte1 rest { s with commands := cs } =
        { takeOk i byte0 byte1 rest s with commands := cs } := by
    rw [takeOk, buf]
    rfl
  have fin (i : Instr) (raw : Raw) (u : State) :
      finishOf i raw { u with commands := cs } = finishOf i raw u := by cases i <;> rfl
  cases h with
  | waitsForCommand hq' | rejects hq' | starts hq' => exact absurd hq' hq
  | issues hq hd hx => exact .issues (s := { s with commands := cs }) hq hd hx
  | waitsForAnswer hq hd hk ha => exact .waitsForAnswer (s := { s with commands := cs }) hq hd hk ha
  | fails hq hd hk ha => exact .fails (s := { s with commands := cs }) hq hd hk ha
  | @goesOn i byte0 byte1 rest hq hd hk ha =>
    have := SequencerEvent.goesOn (s := { s with commands := cs }) hq hd hk ha
    rwa [wentOn, take] at this
  | @ends i byte0 byte1 rest hq hd hk ha =>
    have := SequencerEvent.ends (s := { s with commands := cs }) hq hd hk ha
    rwa [take, fin] at this

/-- R160: RESET keeps what the host presents, whatever it is. -/
theorem resetEvent_withCommands (s : State) (cs : List Presented) :
    resetEvent { s with commands := cs } = { resetEvent s with commands := cs } := by
  have abandon : abandonRequest { s with commands := cs } =
      { abandonRequest s with commands := cs } := by
    cases hp : s.pending <;> simp [abandonRequest, hp]
  rw [resetEvent, abandon]
  rfl

theorem StepEvent.withCommands (h : StepEvent s t) (hq : s.seq ≠ .idle) (cs : List Presented) :
    StepEvent { s with commands := cs } { t with commands := cs } := by
  cases h with
  | @reset rest hs =>
    rw [← resetEvent_withCommands]
    exact .reset (s := { s with commands := cs }) hs
  | codec hs => exact .codec (s := { s with commands := cs }) hs
  | sequencer hs h => exact .sequencer (s := { s with commands := cs }) hs (h.withCommands hq cs)

/-- R18: an event of the sequencer delivers a response, or leaves the response registers and at an ACCEPT
clears `RESP_VALID`. -/
theorem SequencerEvent.response (h : SequencerEvent s t) :
    (∃ r, t.trace = s.trace ++ [.responded r] ∨ ∃ e, t.trace = s.trace ++ [e, .responded r]) ∨
    (t.respStatus = s.respStatus ∧ t.respErr = s.respErr ∧ t.respData = s.respData ∧
      t.respSample = s.respSample ∧
      (t.respValid = s.respValid ∨
        (t.respValid = false ∧ ∃ w ts, t.trace = s.trace ++ [.accepted w ts]))) := by
  cases h with
  | rejects | fails | ends => exact .inl ⟨_, .inr ⟨_, List.append_assoc ..⟩⟩
  | starts => exact .inr ⟨rfl, rfl, rfl, rfl, .inr ⟨rfl, _, _, rfl⟩⟩
  | waitsForCommand | waitsForAnswer | issues | goesOn => exact .inr ⟨rfl, rfl, rfl, rfl, .inl rfl⟩

/-- R12: only a SAMPLE that waits for an answer writes the sample buffer. -/
theorem SequencerEvent.sampleBuf (h : SequencerEvent s t) :
    t.sampleBuf = s.sampleBuf ∨ (s.seq = .wait ∧ s.cmdLatch = 0x09000000#32) := by
  have captured {i : Instr} (raw : Raw) (hq : s.seq = .wait) (hd : decodeCmd s.cmdLatch = .ok i) :
      capturedBuf i raw s = s.sampleBuf ∨ (s.seq = .wait ∧ s.cmdLatch = 0x09000000#32) := by
    by_cases hi : i = .sample
    · exact .inr ⟨hq, decodeCmd_sample (hi ▸ hd)⟩
    · exact .inl (capturedBuf_of_ne hi raw s)
  cases h with
  | goesOn hq hd | ends hq hd => exact captured _ hq hd
  | _ => exact .inl rfl

/-- R13: only the ACCEPT of a SAMPLE writes the timestamp latch. -/
theorem SequencerEvent.tsLatch (h : SequencerEvent s t) :
    t.tsLatch = s.tsLatch ∨ (s.seq = .idle ∧ t.seq = .issue ∧ t.cmdLatch = 0x09000000#32 ∧
      t.trace = s.trace ++ [.accepted 0x09000000#32 t.tsLatch]) := by
  cases h with
  | @starts p cs i hq hc hd =>
    by_cases hi : i = .sample
    · subst hi
      have hw : p.word = 0x09000000#32 := decodeCmd_sample hd
      exact .inr ⟨hq, rfl, hw, by simp [hw]⟩
    · exact .inl (by simp [hi])
  | _ => exact .inl rfl

/-- R55: what the codec port answers is a function of its inputs and the two scale constants. -/
theorem codecPort_congr {c d : Config} (hbus : c.busLsbUv = d.busLsbUv)
    (hshunt : c.shuntLsbUv = d.shuntLsbUv) (op : BitVec 2) (arg : Word) :
    codecPort c op arg = codecPort d op arg := by
  simp only [codecPort, decBus, decShunt, encBus, encShunt, hbus, hshunt]

/-- Settles O10: a codec turn drives the port, and the other events leave the port. -/
theorem codecPortIsIndependentOfTheSequencer : Obligations.CodecPortIsIndependentOfTheSequencer := by
  refine ⟨fun s op arg rest hl hs => step_iff.mpr ⟨hl, .codec hs⟩,
    fun c d op arg hbus hshunt => codecPort_congr hbus hshunt op arg, fun s t h hs => ?_⟩
  cases StepEvent.of_step h with
  | reset => simp
  | codec hc => exact absurd hc (hs _ _ _)
  | sequencer _ h => exact h.codec_eq

/-- Settles O36, by the events of a step. -/
theorem responseRegistersKeepTheirValue : Obligations.ResponseRegistersKeepTheirValue := by
  intro s t h
  cases StepEvent.of_step h with
  | reset => exact .inr (.inl (resetEvent_trace _))
  | codec => exact .inr (.inr ⟨rfl, rfl, rfl, rfl, .inl rfl⟩)
  | sequencer _ h => exact h.response.imp_right .inr

/-- Settles O41: only IDLE has an ACCEPT event. -/
theorem busySequencerTakesNoCommand : Obligations.BusySequencerTakesNoCommand := by
  intro s t hq h
  have notReady : cmdReady s = false := by simp [cmdReady, hq]
  cases StepEvent.of_step h with
  | reset => exact ⟨notReady, resetEvent_commands _, _, resetEvent_trace _, by simp⟩
  | codec => exact ⟨notReady, rfl, _, rfl, by simp⟩
  | sequencer _ h => exact ⟨notReady, h.commands_of_busy hq, h.no_accept_of_busy hq⟩

/-- Settles O42: no event of a busy sequencer reads the command port or writes `CMD_LATCH`. -/
theorem busyStepIgnoresTheCommandPort : Obligations.BusyStepIgnoresTheCommandPort := by
  intro s t cs hq h
  obtain ⟨hl, event⟩ := step_iff.mp h
  refine ⟨step_iff.mpr ⟨hl, event.withCommands hq cs⟩, fun hbusy => ?_⟩
  cases event with
  | reset => exact absurd (resetEvent_seq _) hbusy
  | codec => rfl
  | sequencer _ h => exact h.cmdLatch_of_busy hq

/-- Settles O45, by the events of a step. -/
theorem noStepChangesAConstant : Obligations.NoStepChangesAConstant :=
  fun _ _ h => (StepEvent.of_step h).cfg_eq

/-- Settles O48: SAMPLE has one word, so the latch and the port show that word. -/
theorem onlySampleWritesItsRegisters : Obligations.OnlySampleWritesItsRegisters := by
  intro s t h
  cases StepEvent.of_step h with
  | reset => exact .inl (resetEvent_trace _)
  | codec => exact .inr ⟨.inl rfl, .inl rfl⟩
  | sequencer _ h => exact .inr ⟨h.sampleBuf, h.tsLatch⟩

/-- Settles O43: the invariant gives the latch a command and `STEP` one of its steps. -/
theorem blockWaitsForItsEvents : Obligations.BlockWaitsForItsEvents := by
  refine ⟨fun s hl hs hq hc => step_of_sequencerEvent hl hs (.waitsForCommand hq hc),
    fun s inv hs hq ha => ?_⟩
  obtain ⟨i, hd, -, hk⟩ := inv.latch (by simp [hq])
  exact step_of_sequencerEvent inv.legal hs (.waitsForAnswer hq hd hk ha)

/-- Settles O40, by the turn of the schedule. -/
theorem stepRunsTheDecodedInstruction : Obligations.StepRunsTheDecodedInstruction := by
  refine ⟨fun s rest p cs i hl hs hq hc hd => ?_, fun s rest i hl hs hq hd => ?_,
    fun s rest op arg i hl hs hd => ?_⟩
  · have hf := fetchSequencer_idle_ok (s := { s with schedule := rest }) hq hc hd
    rw [step_sequencer hl hs, hf, runFetched]
  · have hf := fetchSequencer_busy_ok (s := { s with schedule := rest }) hq hd
    rw [step_sequencer hl hs, hf, runFetched]
  · injection hd with hi
    rw [step_codec hl hs, hi]

end Sys2Proof.Machine
end

section
/-! PROOFS. The response registers against the record of events (10_state.md rules R18, R19, R160). -/

namespace Sys2Proof.Machine

open Safety

variable {s t : State}

@[simp] theorem currentResponse_accepted (es : List PortEvent) (w : Word) (ts : Nat) :
    currentResponse (es ++ [.accepted w ts]) = none := by simp [currentResponse]
@[simp] theorem currentResponse_reset (es : List PortEvent) :
    currentResponse (es ++ [.reset]) = none := by simp [currentResponse]
@[simp] theorem currentResponse_responded (es : List PortEvent) (r : Response) :
    currentResponse (es ++ [.responded r]) = some r := by simp [currentResponse]
@[simp] theorem currentResponse_requested (es : List PortEvent) (q : Request) :
    currentResponse (es ++ [.requested q]) = currentResponse es := by simp [currentResponse]
@[simp] theorem currentResponse_answered (es : List PortEvent) (a : Answer) :
    currentResponse (es ++ [.answered a]) = currentResponse es := by simp [currentResponse]
@[simp] theorem currentResponse_codec (es : List PortEvent) (op : BitVec 2) (arg out : Word) :
    currentResponse (es ++ [.codec op arg out]) = currentResponse es := by simp [currentResponse]

/-- R160, R18: while no response stands, only `RESP_VALID` counts. -/
theorem responseShown_none (h : currentResponse s.trace = none) (hv : s.respValid = false) :
    ResponseShown s := by
  simpa [ResponseShown, h] using hv

/-- R19: the registers show the response that has just been delivered, whatever stood there before. -/
theorem shows_deliver (r : Response) (s : State) : Shows (deliver r s) r := by
  cases r with
  | ok d => cases d <;> simp [Shows, Response.status, respDataOf, respSampleOf]
  | error k => cases k <;> simp [Shows, Response.status, ErrorKind.code, respErrOf]

theorem responseShown_deliver (r : Response) (s : State) : ResponseShown (deliver r s) := by
  have hr : currentResponse (deliver r s).trace = some r := by simp
  simpa [ResponseShown, hr] using shows_deliver r s

/-- What a response shows depends on the four response registers alone. -/
theorem shows_congr {r : Response} (hstatus : t.respStatus = s.respStatus)
    (herr : t.respErr = s.respErr) (hdata : t.respData = s.respData)
    (hsample : t.respSample = s.respSample) (h : Shows s r) : Shows t r := by
  cases r with
  | ok d => cases d <;> simpa only [Shows, hstatus, hdata, hsample] using h
  | error k => cases k <;> simpa only [Shows, hstatus, herr] using h

/-- An event that leaves the registers and the last response keeps the agreement of the two. -/
theorem responseShown_congr (htrace : currentResponse t.trace = currentResponse s.trace)
    (hvalid : t.respValid = s.respValid) (hstatus : t.respStatus = s.respStatus)
    (herr : t.respErr = s.respErr) (hdata : t.respData = s.respData)
    (hsample : t.respSample = s.respSample) (h : ResponseShown s) : ResponseShown t := by
  unfold ResponseShown at *
  rw [htrace, hvalid]
  split
  · next hn => simpa [hn] using h
  · next r hr =>
    rw [hr] at h
    exact ⟨h.1, shows_congr hstatus herr hdata hsample h.2⟩

theorem SequencerEvent.responseShown (h : SequencerEvent s t) (hs : ResponseShown s) :
    ResponseShown t := by
  cases h with
  | waitsForCommand | waitsForAnswer => exact hs
  | rejects | fails | ends => exact responseShown_deliver _ _
  | starts => exact responseShown_none (currentResponse_accepted _ _ _) rfl
  | issues =>
    exact responseShown_congr (currentResponse_requested _ _) rfl rfl rfl rfl rfl hs
  | goesOn => exact responseShown_congr (currentResponse_answered _ _) rfl rfl rfl rfl rfl hs

/-- Settles O35: a response writes the registers that R19 gives a value, an ACCEPT and RESET clear
`RESP_VALID`, and no other event touches either side. -/
theorem responseRegistersShowTheLastResponse : Obligations.ResponseRegistersShowTheLastResponse := by
  intro s t hs h
  cases StepEvent.of_step h with
  | reset => exact responseShown_none (by simp) rfl
  | codec => exact responseShown_congr (currentResponse_codec _ _ _ _) rfl rfl rfl rfl rfl hs
  | sequencer _ h => exact h.responseShown hs

end Sys2Proof.Machine
end

section
/-! PROOFS. Every step from a state of the invariant answers a state of the invariant. -/

namespace Sys2Proof.Machine

open Safety

variable {s t : State}

/-- In IDLE the clauses of the invariant about the command in progress say nothing. -/
theorem inv_of_idle (legal : s.cfg.legal = true) (tsLatch : s.tsLatch < 2 ^ s.cfg.tsWidth)
    (respErr : s.respErr < 2 ^ s.cfg.teWidth)
    (respTs : s.respSample.timestamp < 2 ^ s.cfg.tsWidth) (hq : s.seq = .idle)
    (noPending : s.pending = none) (status : s.respValid = true → s.respStatus.toNat ≤ 3)
    (codec : s.codecOut = codecPort s.cfg s.codecOp s.codecIn) : Inv s where
  legal := legal
  tsLatch := tsLatch
  respErr := respErr
  respTs := respTs
  latch hb := absurd hq hb
  pending hw := by simp [hq] at hw
  noPending _ := noPending
  valid hv := ⟨hq, status hv⟩
  codec := codec

/-- The past of the schedule is no concern of the invariant. -/
theorem inv_withSchedule (h : Inv s) (rest : List Turn) : Inv { s with schedule := rest } :=
  ⟨h.legal, h.tsLatch, h.respErr, h.respTs, h.latch, h.pending, h.noPending, h.valid, h.codec⟩

theorem inv_not_valid_of_busy (h : Inv s) (hq : s.seq ≠ .idle) : s.respValid = false :=
  Bool.eq_false_iff.mpr fun hv => hq (h.valid hv).1

theorem tsPort_lt (c : Config) (n : Nat) : tsPort c n < 2 ^ c.tsWidth :=
  Nat.mod_lt _ (Nat.two_pow_pos _)

theorem tePort_lt (c : Config) (n : Nat) : tePort c n < 2 ^ c.teWidth :=
  Nat.mod_lt _ (Nat.two_pow_pos _)

/-- The numbers that a response carries fit the widths of their registers (R13, R18). -/
def ResponseFits (c : Config) : Response → Prop
  | .ok (.sample p) => p.timestamp < 2 ^ c.tsWidth
  | .error (.busError code) => code < 2 ^ c.teWidth
  | _ => True

theorem respErrOf_lt {c : Config} {r : Response} (h : ResponseFits c r) (draw : Nat) :
    respErrOf c draw r < 2 ^ c.teWidth := by
  unfold respErrOf
  split
  · exact h
  · exact tePort_lt _ _

theorem respSampleOf_lt {c : Config} {r : Response} (h : ResponseFits c r) (draw : Nat) :
    (respSampleOf c draw r).timestamp < 2 ^ c.tsWidth := by
  unfold respSampleOf
  split
  · exact h
  · exact tsPort_lt _ _

theorem status_le_three (r : Response) : r.status.toNat ≤ 3 := by
  cases r with
  | ok d => simp [Response.status]
  | error k => cases k <;> simp [Response.status, ErrorKind.code]

/-- R18, R137: a response with numbers that fit leads to an IDLE state of the invariant. -/
theorem inv_deliver {r : Response} (legal : s.cfg.legal = true)
    (tsLatch : s.tsLatch < 2 ^ s.cfg.tsWidth) (noPending : s.pending = none)
    (codec : s.codecOut = codecPort s.cfg s.codecOp s.codecIn) (fits : ResponseFits s.cfg r) :
    Inv (deliver r s) :=
  inv_of_idle legal tsLatch (respErrOf_lt fits _) (respSampleOf_lt fits _) rfl noPending
    (fun _ => status_le_three r) codec

theorem responseFits_finishOf (i : Instr) (raw : Raw) {s : State}
    (tsLatch : s.tsLatch < 2 ^ s.cfg.tsWidth) : ResponseFits s.cfg (.ok (finishOf i raw s)) := by
  cases i
  case sample => exact tsLatch
  all_goals trivial

theorem inv_resetEvent (h : Inv s) : Inv (resetEvent s) := by
  refine inv_of_idle ?_ ?_ ?_ ?_ rfl (resetEvent_pending s) (fun hv => by cases hv) ?_
  · rw [resetEvent_cfg]; exact h.legal
  · rw [resetEvent_cfg]; exact tsPort_lt _ _
  · rw [resetEvent_cfg]; exact tePort_lt _ _
  · rw [resetEvent_cfg]; exact tsPort_lt _ _
  · simpa using h.codec

theorem inv_driveCodec (h : Inv s) (op : BitVec 2) (arg : Word) :
    Inv (driveCodec op arg (codecPort s.cfg op arg) s) :=
  ⟨h.legal, h.tsLatch, h.respErr, h.respTs, h.latch, h.pending, h.noPending, h.valid, rfl⟩

/-- R52: the tests of ACCEPT raise no error of the bus. -/
theorem responseFits_acceptError {w : Word} {k : ErrorKind} (h : acceptError w = some k)
    (c : Config) : ResponseFits c (.error k) := by
  unfold acceptError checkOf at h
  split at h
  · cases h; trivial
  · split at h <;> cases h
    trivial

/-- R16: ACCEPT latches a legal command and puts `STEP` on its first step. -/
theorem inv_startCommand {p : Presented} {cs : List Presented} {i : Instr} (hs : Inv s)
    (hq : s.seq = .idle) (hd : decodeCmd p.word = .ok i) (ho : operandOk i = true) :
    Inv (startCommand p (decide (i = .sample)) (openCommand p cs s)) where
  legal := hs.legal
  tsLatch := by
    rw [startCommand_tsLatch]
    split
    · exact tsPort_lt _ _
    · exact hs.tsLatch
  respErr := hs.respErr
  respTs := hs.respTs
  latch _ := ⟨i, hd, ho, program_length_pos s.cfg (decodeCmd_isCommand hd) ho⟩
  pending hw := by cases hw
  noPending _ := hs.noPending (by simp [hq])
  valid hv := by cases hv
  codec := hs.codec

/-- R15: ISSUE leaves the request of step `STEP` outstanding. -/
theorem inv_issued {i : Instr} {x : Transaction} (hs : Inv s) (hq : s.seq = .issue)
    (hd : decodeCmd s.cmdLatch = .ok i) (hx : (program s.cfg i)[s.stepCtr.toNat]? = some x) :
    Inv (issued x s) where
  legal := hs.legal
  tsLatch := hs.tsLatch
  respErr := hs.respErr
  respTs := hs.respTs
  latch _ := hs.latch (by simp [hq])
  pending _ j hj := by
    cases hd.symm.trans hj
    simp [issued, hx]
  noPending hw := absurd rfl hw
  valid hv := absurd hv (by simp [issued, inv_not_valid_of_busy hs (by simp [hq])])
  codec := hs.codec

/-- R11: an answer before the last step puts `STEP` on the next one. -/
theorem inv_wentOn {i : Instr} (byte0 byte1 : Byte) (rest : List Answer) (hs : Inv s)
    (hq : s.seq = .wait) (hd : decodeCmd s.cmdLatch = .ok i)
    (hk : s.stepCtr.toNat + 1 < (program s.cfg i).length) :
    Inv (wentOn i byte0 byte1 rest s) where
  legal := hs.legal
  tsLatch := hs.tsLatch
  respErr := hs.respErr
  respTs := hs.respTs
  latch _ := by
    obtain ⟨j, hj, ho, -⟩ := hs.latch (by simp [hq])
    cases hd.symm.trans hj
    exact ⟨i, hd, ho, (stepCtr_succ hk (program_length_le _ _)).trans_lt hk⟩
  pending hw := by cases hw
  noPending _ := rfl
  valid hv := absurd hv (by simp [wentOn, takeOk, inv_not_valid_of_busy hs (by simp [hq])])
  codec := hs.codec

theorem SequencerEvent.inv (h : SequencerEvent s t) (hs : Inv s) : Inv t := by
  cases h with
  | waitsForCommand | waitsForAnswer => exact hs
  | rejects hq hc hk =>
    exact inv_deliver hs.legal hs.tsLatch (hs.noPending (by simp [hq])) hs.codec
      (responseFits_acceptError hk _)
  | starts hq hc hd ho => exact inv_startCommand hs hq hd ho
  | issues hq hd hx => exact inv_issued hs hq hd hx
  | fails => exact inv_deliver hs.legal hs.tsLatch rfl hs.codec (tePort_lt _ _)
  | goesOn hq hd hk => exact inv_wentOn _ _ _ hs hq hd hk
  | ends => exact inv_deliver hs.legal hs.tsLatch rfl hs.codec (responseFits_finishOf _ _ hs.tsLatch)

theorem StepEvent.inv (h : StepEvent s t) (hs : Inv s) : Inv t := by
  cases h with
  | reset => exact inv_resetEvent (inv_withSchedule hs _)
  | codec => exact inv_driveCodec (inv_withSchedule hs _) _ _
  | sequencer _ h => exact h.inv (inv_withSchedule hs _)

/-- In IDLE the sequencer waits, turns the word away or starts it. -/
theorem exists_sequencerEvent_of_idle (hq : s.seq = .idle) : ∃ t, SequencerEvent s t := by
  cases hc : s.commands with
  | nil => exact ⟨_, .waitsForCommand hq hc⟩
  | cons p cs =>
    cases hk : acceptError p.word with
    | some k => exact ⟨_, .rejects hq hc hk⟩
    | none =>
      obtain ⟨i, hd, ho⟩ := acceptError_none_iff.mp hk
      exact ⟨_, .starts hq hc hd ho⟩

/-- In WAIT, at a step of the command, the sequencer waits or takes the answer. -/
theorem exists_sequencerEvent_of_wait {i} (hq : s.seq = .wait) (hd : decodeCmd s.cmdLatch = .ok i)
    (hk : s.stepCtr.toNat < (program s.cfg i).length) : ∃ t, SequencerEvent s t := by
  cases ha : s.answers with
  | nil => exact ⟨_, .waitsForAnswer hq hd hk ha⟩
  | cons a rest =>
    cases a with
    | err code => exact ⟨_, .fails hq hd hk ha⟩
    | ok byte0 byte1 =>
      rcases Nat.lt_or_eq_of_le (Nat.succ_le_of_lt hk) with more | last
      · exact ⟨_, .goesOn hq hd more ha⟩
      · exact ⟨_, .ends hq hd last ha⟩

theorem exists_sequencerEvent (hs : Inv s) : ∃ t, SequencerEvent s t := by
  cases hq : s.seq with
  | idle => exact exists_sequencerEvent_of_idle hq
  | issue =>
    obtain ⟨i, hd, -, hk⟩ := hs.latch (by simp [hq])
    exact ⟨_, .issues hq hd (List.getElem?_eq_getElem hk)⟩
  | wait =>
    obtain ⟨i, hd, -, hk⟩ := hs.latch (by simp [hq])
    exact exists_sequencerEvent_of_wait hq hd hk

theorem exists_stepEvent (hs : Inv s) : ∃ t, StepEvent s t := by
  cases hsch : s.schedule with
  | nil =>
    obtain ⟨t, h⟩ := exists_sequencerEvent (inv_withSchedule hs [])
    exact ⟨t, .sequencer (.inr ⟨hsch, rfl⟩) h⟩
  | cons turn rest =>
    cases turn with
    | sequencer =>
      obtain ⟨t, h⟩ := exists_sequencerEvent (inv_withSchedule hs rest)
      exact ⟨t, .sequencer (.inl hsch) h⟩
    | codec op arg => exact ⟨_, .codec hsch⟩
    | reset => exact ⟨_, .reset hsch⟩

/-- Settles O50: a state of the invariant has an event, and every event keeps the invariant. -/
theorem everyStepGoesOnAndKeepsTheInvariant : Obligations.EveryStepGoesOnAndKeepsTheInvariant := by
  intro s hs
  obtain ⟨t, h⟩ := exists_stepEvent hs
  exact ⟨t, step_iff.mpr ⟨hs.legal, h⟩, h.inv hs⟩

end Sys2Proof.Machine
end

section
/-! PROOFS. The six slots of the sample buffer, and the data of a response (10_state.md rules R12, R19). -/

namespace Sys2Proof.Machine

open Safety

/-- R12: a write to a slot is read back there and leaves the others. -/
theorem slot_setSlot (x : Voltages) (v : Word) {i k : Nat} (hk : k < 6) :
    (x.setSlot i v).slot k = if k = i then some v else x.slot k := by
  by_cases hi : i < 6
  · interval_cases i <;> interval_cases k <;> rfl
  · obtain ⟨j, rfl⟩ := Nat.exists_eq_add_of_le' (Nat.le_of_not_lt hi)
    have same : x.setSlot (j + 6) v = x := rfl
    rw [same, if_neg (by omega)]

theorem voltages_ext_slot {x y : Voltages} (h : ∀ k, k < 6 → x.slot k = y.slot k) : x = y := by
  have bus1 : x.bus1 = y.bus1 := Option.some.inj (h 0 (by decide))
  have shunt1 : x.shunt1 = y.shunt1 := Option.some.inj (h 1 (by decide))
  have bus2 : x.bus2 = y.bus2 := Option.some.inj (h 2 (by decide))
  have shunt2 : x.shunt2 = y.shunt2 := Option.some.inj (h 3 (by decide))
  have bus3 : x.bus3 = y.bus3 := Option.some.inj (h 4 (by decide))
  have shunt3 : x.shunt3 = y.shunt3 := Option.some.inj (h 5 (by decide))
  show (⟨x.bus1, x.shunt1, x.bus2, x.shunt2, x.bus3, x.shunt3⟩ : Voltages) = y
  rw [bus1, shunt1, bus2, shunt2, bus3, shunt3]

/-- Only SAMPLE hands over the timestamp. -/
theorem resultOf_of_ne {i : Instr} (h : i ≠ .sample) (c : Config) (ts ts' : Nat) (raws : List Raw) :
    resultOf c ts raws i = resultOf c ts' raws i := by
  cases i
  case sample => exact absurd rfl h
  all_goals rfl

theorem finishOf_of_ne {i : Instr} (h : i ≠ .sample) (raw : Raw) (s : State) (ts : Nat) :
    finishOf i raw s = resultOf s.cfg ts [raw] i := by
  rw [resultOf_of_ne h s.cfg ts s.tsLatch]
  cases i
  case sample => exact absurd rfl h
  all_goals rfl

end Sys2Proof.Machine
end

section
/-! PROOFS. A step depends on the live state only (10_state.md rule R20): two states that agree have the
same events, and agree again. -/

namespace Sys2Proof.Machine

open Safety

variable {s t s' : State}

/-- In IDLE no register is live. -/
theorem agree_of_idle (hq : s.seq = .idle) (cfg : s.cfg = t.cfg) (seq : s.seq = t.seq)
    (pending : s.pending = t.pending) (commands : s.commands = t.commands)
    (answers : s.answers = t.answers) (schedule : s.schedule = t.schedule) : Agree s t where
  cfg := cfg
  seq := seq
  pending := pending
  commands := commands
  answers := answers
  schedule := schedule
  stepCtr hb := absurd hq hb
  cmdLatch hb := absurd hq hb
  tsLatch hb := absurd hq hb
  sampleBuf hb := absurd hq hb

theorem agree_withSchedule (h : Agree s t) (rest : List Turn) :
    Agree { s with schedule := rest } { t with schedule := rest } :=
  ⟨h.cfg, h.seq, h.pending, h.commands, h.answers, rfl, h.stepCtr, h.cmdLatch, h.tsLatch, h.sampleBuf⟩

/-- R20: what took `s` to `s'` takes `t`, by the relation `R`, to a state that agrees with `s'` again, and the
ports show the same events in both. -/
def Matches (R : State → State → Prop) (s t s' : State) : Prop :=
  ∃ t' events, R t t' ∧ Agree s' t' ∧ s'.trace = s.trace ++ events ∧ t'.trace = t.trace ++ events

/-- R162: RESET abandons the same request in both. -/
theorem agree_resetEvent (h : Agree s t) : Agree (resetEvent s) (resetEvent t) := by
  refine agree_of_idle rfl ?_ rfl ?_ ?_ ?_ ?_
  · simpa using h.cfg
  · simp
  · simpa using h.commands
  · rw [resetEvent_answers, resetEvent_answers, h.answers, h.pending]
  · simpa using h.schedule

theorem agree_driveCodec (h : Agree s t) (op : BitVec 2) (arg out : Word) :
    Agree (driveCodec op arg out s) (driveCodec op arg out t) :=
  ⟨h.cfg, h.seq, h.pending, h.commands, h.answers, h.schedule, h.stepCtr, h.cmdLatch, h.tsLatch,
    h.sampleBuf⟩

/-- What the command in the latch of a busy state reads of the state agrees. -/
theorem agree_latch (h : Agree s t) (hq : s.seq ≠ .idle) {i : Instr}
    (hd : decodeCmd s.cmdLatch = .ok i) :
    t.seq = s.seq ∧ decodeCmd t.cmdLatch = .ok i ∧ t.stepCtr = s.stepCtr ∧ t.cfg = s.cfg :=
  ⟨h.seq.symm, h.cmdLatch hq ▸ hd, (h.stepCtr hq).symm, h.cfg.symm⟩

/-- R12: after a capture of a SAMPLE one more slot agrees, the one of `STEP`. -/
theorem agree_capturedBuf (h : Agree s t) (hq : s.seq ≠ .idle)
    (hd : decodeCmd s.cmdLatch = .ok .sample) (raw : Raw) {k : Nat} (hk : k < s.stepCtr.toNat + 1)
    (hk6 : k < 6) : (capturedBuf .sample raw s).slot k = (capturedBuf .sample raw t).slot k := by
  rw [capturedBuf_sample, capturedBuf_sample, ← h.stepCtr hq, ← h.cfg, slot_setSlot _ _ hk6,
    slot_setSlot _ _ hk6]
  split
  · rfl
  · exact h.sampleBuf hq hd k (by omega)

/-- R20: the data of the response depends on live state only. -/
theorem agree_finishOf (h : Agree s t) (hq : s.seq ≠ .idle) {i : Instr}
    (hd : decodeCmd s.cmdLatch = .ok i) (hk : s.stepCtr.toNat + 1 = (program s.cfg i).length)
    (byte0 byte1 : Byte) (rest : List Answer) :
    finishOf i (rawOfBytes byte0 byte1) (takeOk i byte0 byte1 rest s) =
      finishOf i (rawOfBytes byte0 byte1) (takeOk i byte0 byte1 rest t) := by
  by_cases hi : i = .sample
  · subst hi
    have six : s.stepCtr.toNat + 1 = 6 := hk
    have buf : capturedBuf .sample (rawOfBytes byte0 byte1) s =
        capturedBuf .sample (rawOfBytes byte0 byte1) t :=
      voltages_ext_slot fun k hk6 => agree_capturedBuf h hq hd _ (by omega) hk6
    simp [finishOf, takeOk, buf, h.tsLatch hq hd]
  · rw [finishOf_of_ne hi _ _ 0, finishOf_of_ne hi _ _ 0]
    exact congrArg (fun c => resultOf c 0 _ i) h.cfg

/-- R20 for one event of the sequencer. -/
theorem SequencerEvent.matches (h : SequencerEvent s s') (ha : Agree s t) :
    Matches SequencerEvent s t s' := by
  cases h with
  | waitsForCommand hq hc =>
    exact ⟨t, [], .waitsForCommand (ha.seq ▸ hq) (ha.commands ▸ hc), ha, by simp⟩
  | @rejects p cs k hq hc hk =>
    refine ⟨_, _, .rejects (ha.seq ▸ hq) (ha.commands ▸ hc) hk,
      agree_of_idle rfl ha.cfg rfl ha.pending rfl ha.answers ha.schedule, List.append_assoc .., ?_⟩
    simp [ha.cfg]
  | @starts p cs i hq hc hd ho =>
    refine ⟨_, _, .starts (ha.seq ▸ hq) (ha.commands ▸ hc) hd ho,
      ⟨ha.cfg, rfl, ha.pending, rfl, ha.answers, ha.schedule, fun _ => rfl, fun _ => rfl,
        fun _ hs => ?_, fun _ _ k hk => absurd hk (Nat.not_lt_zero k)⟩, rfl, ?_⟩
    · cases hd.symm.trans hs
      simp [ha.cfg]
    · simp [ha.cfg]
  | @issues i x hq hd hx =>
    have busy : s.seq ≠ .idle := by simp [hq]
    obtain ⟨hseq, hlatch, hstep, hcfg⟩ := agree_latch ha busy hd
    refine ⟨_, _, .issues (hseq.trans hq) hlatch (by rw [hcfg, hstep]; exact hx),
      ⟨ha.cfg, rfl, ?_, ha.commands, ha.answers, ha.schedule, fun _ => ha.stepCtr busy,
        fun _ => ha.cmdLatch busy, fun _ => ha.tsLatch busy, fun _ => ha.sampleBuf busy⟩, rfl, ?_⟩ <;>
      simp [issued, hcfg]
  | @waitsForAnswer i hq hd hk hans =>
    obtain ⟨hseq, hlatch, hstep, hcfg⟩ := agree_latch ha (by simp [hq]) hd
    exact ⟨t, [], .waitsForAnswer (hseq.trans hq) hlatch (by rwa [hcfg, hstep]) (ha.answers ▸ hans), ha,
      by simp⟩
  | @fails i code rest hq hd hk hans =>
    obtain ⟨hseq, hlatch, hstep, hcfg⟩ := agree_latch ha (by simp [hq]) hd
    refine ⟨_, _, .fails (hseq.trans hq) hlatch (by rwa [hcfg, hstep]) (ha.answers ▸ hans),
      agree_of_idle rfl ha.cfg rfl rfl ha.commands rfl ha.schedule, List.append_assoc .., ?_⟩
    simp [hcfg]
  | @goesOn i byte0 byte1 rest hq hd hk hans =>
    have busy : s.seq ≠ .idle := by simp [hq]
    obtain ⟨hseq, hlatch, hstep, hcfg⟩ := agree_latch ha busy hd
    refine ⟨_, _, .goesOn (hseq.trans hq) hlatch (by rwa [hcfg, hstep]) (ha.answers ▸ hans),
      ⟨ha.cfg, rfl, rfl, ha.commands, rfl, ha.schedule, fun _ => congrArg (· + 1#3) hstep.symm,
        fun _ => ha.cmdLatch busy, fun _ => ha.tsLatch busy, fun _ hs k hk' => ?_⟩, rfl, rfl⟩
    cases hd.symm.trans hs
    have six : s.stepCtr.toNat + 1 < 6 := hk
    have written : k < s.stepCtr.toNat + 1 := stepCtr_succ six (Nat.le_refl 6) ▸ hk'
    exact agree_capturedBuf ha busy hd _ written (by omega)
  | @ends i byte0 byte1 rest hq hd hk hans =>
    have busy : s.seq ≠ .idle := by simp [hq]
    obtain ⟨hseq, hlatch, hstep, hcfg⟩ := agree_latch ha busy hd
    refine ⟨_, _, .ends (hseq.trans hq) hlatch (by rwa [hcfg, hstep]) (ha.answers ▸ hans),
      agree_of_idle rfl ha.cfg rfl rfl ha.commands rfl ha.schedule, List.append_assoc .., ?_⟩
    rw [agree_finishOf ha busy hd hk]
    exact List.append_assoc ..

theorem StepEvent.matches (h : StepEvent s s') (ha : Agree s t) : Matches StepEvent s t s' := by
  cases h with
  | @reset rest hs =>
    exact ⟨_, _, .reset (ha.schedule ▸ hs), agree_resetEvent (agree_withSchedule ha rest), rfl, rfl⟩
  | @codec op arg rest hs =>
    have out : codecPort t.cfg op arg = codecPort s.cfg op arg := by rw [ha.cfg]
    have event := StepEvent.codec (s := t) (ha.schedule ▸ hs)
    rw [out] at event
    exact ⟨_, _, event, agree_driveCodec (agree_withSchedule ha rest) _ _ _, rfl, rfl⟩
  | @sequencer rest s' hs h =>
    obtain ⟨t', events, event, agree, traces⟩ := h.matches (agree_withSchedule ha rest)
    have turn : SequencerTurn t rest := by rwa [SequencerTurn, ← ha.schedule]
    exact ⟨t', events, .sequencer turn event, agree, traces⟩

/-- Settles O54, by the events of a step: each reads live state only. -/
theorem aStepDependsOnLiveStateOnly : Obligations.AStepDependsOnLiveStateOnly := by
  intro s t s' ha h
  obtain ⟨hl, event⟩ := step_iff.mp h
  obtain ⟨t', events, event', agree, traces⟩ := event.matches ha
  exact ⟨t', events, step_iff.mpr ⟨ha.cfg ▸ hl, event'⟩, agree, traces⟩

/-- R20 along a whole run. -/
theorem run_matches {n : Nat} (ha : Agree s t) (h : Host.Core.run Sys2Proof.core n s = .next s') :
    Matches (fun t t' => Host.Core.run Sys2Proof.core n t = .next t') s t s' := by
  induction n generalizing s t with
  | zero =>
    cases (run_zero s).symm.trans h
    exact ⟨t, [], run_zero t, ha, by simp⟩
  | succ n ih =>
    obtain ⟨u, hu, hrun⟩ := run_succ_cases h
    obtain ⟨v, first, hv, agree, htrace, htrace'⟩ := aStepDependsOnLiveStateOnly s t u ha hu
    obtain ⟨t', more, hrun', agree', hmore, hmore'⟩ := ih agree hrun
    refine ⟨t', first ++ more, (run_succ_next hv).trans hrun', agree', ?_, ?_⟩
    · rw [hmore, htrace, List.append_assoc]
    · rw [hmore', htrace', List.append_assoc]

/-- Settles O55: an IDLE state without an outstanding request agrees with the reset state of the same
constants and ports, so their runs match. -/
theorem nothingCarriesOverToTheNextCommand : Obligations.NothingCarriesOverToTheNextCommand := by
  intro s s' n hq hp h
  have agree : Agree s { State.reset with
      cfg := s.cfg
      commands := s.commands
      answers := s.answers
      schedule := s.schedule } := agree_of_idle hq rfl hq hp rfl rfl rfl
  obtain ⟨t', events, hrun, -, htrace, htrace'⟩ := run_matches agree h
  exact ⟨t', events, hrun, htrace, htrace'⟩

end Sys2Proof.Machine
end

section
/-! PROOFS. A whole command is the big step that consumes the transport's answers (10_state.md rules R15,
R16, R44, R122): the micro-sequence by induction on the transactions that are left. -/

namespace Sys2Proof.Machine

open Safety

variable {s t : State} {c : Config} {i : Instr} {ts : Nat} {raws : List Raw}

theorem requestCount_append (es fs : List PortEvent) :
    requestCount (es ++ fs) = requestCount es + requestCount fs := by
  simp [requestCount]

theorem rawAt_append_last (raws : List Raw) (raw : Raw) : rawAt (raws ++ [raw]) raws.length = raw := by
  simp [rawAt]

theorem rawAt_append_before (raw : Raw) {k : Nat} (h : k < raws.length) :
    rawAt (raws ++ [raw]) k = rawAt raws k := by
  simp [rawAt, List.getElem?_append_left h]

/-- R12, R120: each of the first slots, one for each raw value so far, holds its decode. -/
def SlotsHold (c : Config) (raws : List Raw) (x : Voltages) : Prop :=
  ∀ k, k < raws.length → k < 6 → x.slot k = some (sampleDecode c k (rawAt raws k))

theorem slotsHold_setSlot {x : Voltages} (h : SlotsHold c raws x) (raw : Raw) :
    SlotsHold c (raws ++ [raw]) (x.setSlot raws.length (sampleDecode c raws.length raw)) := by
  intro k hk hk6
  rw [slot_setSlot _ _ hk6]
  split
  · next hlast => rw [hlast, rawAt_append_last]
  · have before : k < raws.length := by
      rw [List.length_append, List.length_singleton] at hk
      omega
    rw [rawAt_append_before raw before]
    exact h k before hk6

/-- R120: six raw values in their slots are the record that SAMPLE hands over. -/
theorem resultOf_sample {x : Voltages} (h : SlotsHold c raws x) (six : raws.length = 6) :
    resultOf c ts raws .sample = .sample ⟨ts, x⟩ := by
  have same : x = ⟨sampleDecode c 0 (rawAt raws 0), sampleDecode c 1 (rawAt raws 1),
      sampleDecode c 2 (rawAt raws 2), sampleDecode c 3 (rawAt raws 3),
      sampleDecode c 4 (rawAt raws 4), sampleDecode c 5 (rawAt raws 5)⟩ := by
    refine voltages_ext_slot fun k hk => ?_
    rw [h k (by omega) hk]
    interval_cases k <;> rfl
  rw [same]
  rfl

/-- Every command but SAMPLE has at most one step. -/
theorem program_length_of_ne (c : Config) (h : i ≠ .sample) : (program c i).length ≤ 1 := by
  unfold program
  split
  case h_13 => exact absurd rfl h
  all_goals simp

/-- The command `i` is about to send its next request, and its reads so far brought `raws`. -/
structure InProgress (c : Config) (i : Instr) (ts : Nat) (raws : List Raw) (s : State) : Prop where
  legal : s.cfg.legal = true
  cfg : s.cfg = c
  seq : s.seq = .issue
  latch : decodeCmd s.cmdLatch = .ok i
  schedule : s.schedule = []
  stepCtr : s.stepCtr.toNat = raws.length
  tsLatch : i = .sample → s.tsLatch = ts
  slots : i = .sample → SlotsHold c raws s.sampleBuf

/-- The command has ended in `t` with a valid response, after `events`, with the answers `left`. -/
structure Ended (s : State) (events : List PortEvent) (left : List Answer) (t : State) : Prop where
  seq : t.seq = .idle
  respValid : t.respValid = true
  cfg : t.cfg = s.cfg
  commands : t.commands = s.commands
  answers : t.answers = left
  schedule : t.schedule = []
  trace : t.trace = s.trace ++ events

theorem step_issued {x : Transaction} {more : List Transaction} (h : InProgress c i ts raws s)
    (hp : (program c i).drop raws.length = x :: more) : step s = .next (issued x s) := by
  refine step_of_sequencerEvent h.legal h.schedule (.issues h.seq h.latch ?_)
  rw [h.cfg, h.stepCtr, ← List.head?_drop, hp, List.head?_cons]

/-- R19: the data of the response after the last step are those of the big step. -/
theorem finishOf_eq_resultOf (h : InProgress c i ts raws s) (x : Transaction)
    (hk : raws.length + 1 = (program c i).length) (byte0 byte1 : Byte) (rest : List Answer) :
    finishOf i (rawOfBytes byte0 byte1) (takeOk i byte0 byte1 rest (issued x s)) =
      resultOf c ts (raws ++ [rawOfBytes byte0 byte1]) i := by
  by_cases hi : i = .sample
  · have slots := slotsHold_setSlot (h.slots hi) (rawOfBytes byte0 byte1)
    have tsLatch := h.tsLatch hi
    subst hi
    have six : (raws ++ [rawOfBytes byte0 byte1]).length = 6 := List.length_append.trans hk
    rw [resultOf_sample slots six]
    simp [finishOf, takeOk, capturedBuf_sample, issued, h.cfg, h.stepCtr, tsLatch]
  · have none : raws = [] := List.eq_nil_of_length_eq_zero (by
      have := program_length_of_ne c hi
      omega)
    rw [finishOf_of_ne hi _ _ ts, none]
    exact congrArg (fun d => resultOf d ts _ i) h.cfg

/-- R16: an answer before the last step leads to the next request. -/
theorem inProgress_wentOn (h : InProgress c i ts raws s) (x : Transaction)
    (hk : raws.length + 1 < (program c i).length) (byte0 byte1 : Byte) (rest : List Answer) :
    InProgress c i ts (raws ++ [rawOfBytes byte0 byte1]) (wentOn i byte0 byte1 rest (issued x s)) where
  legal := h.legal
  cfg := h.cfg
  seq := rfl
  latch := h.latch
  schedule := h.schedule
  stepCtr := by
    have count := stepCtr_succ (k := s.stepCtr) (by rwa [h.stepCtr]) (program_length_le c i)
    simpa [wentOn, issued, h.stepCtr] using count
  tsLatch := h.tsLatch
  slots hi := by
    have slots := slotsHold_setSlot (h.slots hi) (rawOfBytes byte0 byte1)
    subst hi
    simpa [wentOn, takeOk, capturedBuf_sample, issued, h.cfg, h.stepCtr] using slots

/-- The transactions that are left count the steps that are left. -/
theorem program_length_of_drop {x : Transaction} {more : List Transaction}
    (hp : (program c i).drop raws.length = x :: more) :
    (program c i).length = raws.length + 1 + more.length := by
  have := congrArg List.length hp
  rw [List.length_drop, List.length_cons] at this
  omega

/-- R132: a request with a failed answer takes two steps and ends the command. -/
theorem run_failed {x : Transaction} {more : List Transaction} {code : Nat} {rest : List Answer}
    (h : InProgress c i ts raws s) (hp : (program c i).drop raws.length = x :: more)
    (ha : s.answers = .err code :: rest) :
    ∃ t, Host.Core.run Sys2Proof.core 2 s = .next t ∧
      Ended s [.requested (requestOf c x), .answered (.err (tePort c code)),
        .responded (.error (.busError (tePort c code)))] rest t := by
  have hk : (issued x s).stepCtr.toNat < (program (issued x s).cfg i).length := by
    show s.stepCtr.toNat < (program s.cfg i).length
    rw [h.cfg, h.stepCtr, program_length_of_drop hp]
    omega
  have hfail := step_of_sequencerEvent (s := issued x s) h.legal h.schedule (.fails rfl h.latch hk ha)
  refine ⟨_, (run_succ_next (step_issued h hp)).trans (run_succ_next hfail), rfl, rfl, rfl, rfl, rfl,
    h.schedule, ?_⟩
  simp [issued, h.cfg, answerPort]

/-- R16: the last request takes two steps and ends the command with its data. -/
theorem run_last {x : Transaction} {byte0 byte1 : Byte} {rest : List Answer}
    (h : InProgress c i ts raws s) (hp : (program c i).drop raws.length = [x])
    (ha : s.answers = .ok byte0 byte1 :: rest) :
    ∃ t, Host.Core.run Sys2Proof.core 2 s = .next t ∧
      Ended s [.requested (requestOf c x), .answered (.ok byte0 byte1),
        .responded (.ok (resultOf c ts (raws ++ [rawOfBytes byte0 byte1]) i))] rest t := by
  have last : raws.length + 1 = (program c i).length := (program_length_of_drop hp).symm
  have hk : (issued x s).stepCtr.toNat + 1 = (program (issued x s).cfg i).length := by
    show s.stepCtr.toNat + 1 = (program s.cfg i).length
    rw [h.cfg, h.stepCtr, last]
  have hend := step_of_sequencerEvent (s := issued x s) h.legal h.schedule (.ends rfl h.latch hk ha)
  refine ⟨_, (run_succ_next (step_issued h hp)).trans (run_succ_next hend), rfl, rfl, rfl, rfl, rfl,
    h.schedule, ?_⟩
  rw [finishOf_eq_resultOf h x last]
  simp [issued, takeOk, h.cfg, answerPort]

/-- R16: any other request with a successful answer takes two steps to the next request. -/
theorem run_wentOn {x : Transaction} {more : List Transaction} {byte0 byte1 : Byte}
    {rest : List Answer} (n : Nat) (h : InProgress c i ts raws s)
    (hp : (program c i).drop raws.length = x :: more) (hk : raws.length + 1 < (program c i).length)
    (ha : s.answers = .ok byte0 byte1 :: rest) :
    Host.Core.run Sys2Proof.core (n + 2) s =
      Host.Core.run Sys2Proof.core n (wentOn i byte0 byte1 rest (issued x s)) := by
  have hk' : (issued x s).stepCtr.toNat + 1 < (program (issued x s).cfg i).length := by
    show s.stepCtr.toNat + 1 < (program s.cfg i).length
    rwa [h.cfg, h.stepCtr]
  exact (run_succ_next (step_issued h hp)).trans (run_succ_next
    (step_of_sequencerEvent (s := issued x s) h.legal h.schedule (.goesOn rfl h.latch hk' ha)))

/-- R15 from any request on: the machine runs two steps for each request of the transactions that are
left, with their events. -/
theorem run_transactions {s : State} {raws : List Raw} (x : Transaction) (more : List Transaction)
    {events : List PortEvent} {left : List Answer} (h : InProgress c i ts raws s)
    (hp : (program c i).drop raws.length = x :: more)
    (hbig : transactions c i ts (x :: more) raws s.answers = some (events, left)) :
    ∃ t, Host.Core.run Sys2Proof.core (2 * requestCount events) s = .next t ∧
      Ended s events left t := by
  match ha : s.answers, more with
  | [], _ => simp [ha, transactions] at hbig
  | .err code :: rest, _ =>
    simp only [ha, transactions, Option.some.injEq, Prod.mk.injEq] at hbig
    obtain ⟨rfl, rfl⟩ := hbig
    exact run_failed h hp ha
  | .ok byte0 byte1 :: rest, [] =>
    simp only [ha, transactions, Option.map_some, Option.some.injEq, Prod.mk.injEq] at hbig
    obtain ⟨rfl, rfl⟩ := hbig
    exact run_last h hp ha
  | .ok byte0 byte1 :: rest, y :: more =>
    rw [ha, transactions] at hbig
    obtain ⟨⟨later, left'⟩, hlater, heq⟩ := Option.map_eq_some_iff.mp hbig
    cases heq
    have hk : raws.length + 1 < (program c i).length := by
      rw [program_length_of_drop hp, List.length_cons]
      omega
    have hp' : (program c i).drop (raws ++ [rawOfBytes byte0 byte1]).length = y :: more := by
      rw [List.length_append, List.length_singleton, ← List.drop_drop, hp]
      rfl
    obtain ⟨t, hrun, ended⟩ :=
      run_transactions y more (inProgress_wentOn h x hk byte0 byte1 rest) hp' hlater
    have count : requestCount ([.requested (requestOf c x), .answered (.ok byte0 byte1)] ++ later) =
        1 + requestCount later := requestCount_append _ _
    rw [count, show 2 * (1 + requestCount later) = 2 * requestCount later + 2 by omega,
      run_wentOn _ h hp hk ha]
    refine ⟨t, hrun, ended.seq, ended.respValid, ended.cfg, ended.commands, ended.answers,
      ended.schedule, ?_⟩
    rw [ended.trace]
    simp [wentOn, issued, takeOk, h.cfg, answerPort]

/-- R16: an ACCEPT of a legal word starts the micro-sequence. -/
theorem inProgress_startCommand {p : Presented} {cs : List Presented} (hl : s.cfg.legal = true)
    (hs : s.schedule = []) (hd : decodeCmd p.word = .ok i) :
    InProgress s.cfg i (tsPort s.cfg p.ts) []
      (startCommand p (decide (i = .sample)) (openCommand p cs s)) where
  legal := hl
  cfg := rfl
  seq := rfl
  latch := hd
  schedule := hs
  stepCtr := rfl
  tsLatch hi := by simp [hi]
  slots _ k hk := absurd hk (Nat.not_lt_zero k)

/-- R56, R131: a word that ACCEPT turns away ends in one step, without a request. -/
theorem run_rejected {p : Presented} {cs : List Presented} {k : ErrorKind}
    (hl : s.cfg.legal = true) (hs : s.schedule = []) (hq : s.seq = .idle)
    (hc : s.commands = p :: cs) (hk : acceptError p.word = some k) :
    ∃ t, Host.Core.run Sys2Proof.core 1 s = .next t ∧
      Ended { s with commands := cs }
        [.accepted p.word (tsPort s.cfg p.ts), .responded (.error k)] s.answers t :=
  ⟨_, run_succ_next (step_of_sequencerEvent hl hs (.rejects hq hc hk)), rfl, rfl, rfl, rfl, rfl, hs,
    List.append_assoc ..⟩

/-- R15: a whole command is one big step. -/
theorem run_bigStep {p : Presented} {cs : List Presented} {events : List PortEvent}
    {left : List Answer} (hl : s.cfg.legal = true) (hs : s.schedule = []) (hq : s.seq = .idle)
    (hc : s.commands = p :: cs) (hbig : bigStep s.cfg p s.answers = some (events, left)) :
    ∃ t, Host.Core.run Sys2Proof.core (1 + 2 * requestCount events) s = .next t ∧
      Ended { s with commands := cs } events left t := by
  unfold bigStep at hbig
  cases hd : decodeCmd p.word with
  | error e =>
    simp only [hd, Option.some.injEq, Prod.mk.injEq] at hbig
    obtain ⟨rfl, rfl⟩ := hbig
    exact run_rejected hl hs hq hc (acceptError_illegal hd)
  | ok i =>
    simp only [hd] at hbig
    by_cases ho : operandOk i = true
    · rw [if_pos ho] at hbig
      obtain ⟨⟨later, left'⟩, hlater, heq⟩ := Option.map_eq_some_iff.mp hbig
      cases heq
      obtain ⟨x, more, hprog⟩ := List.exists_cons_of_length_pos
        (program_length_pos s.cfg (decodeCmd_isCommand hd) ho)
      rw [hprog] at hlater
      obtain ⟨t, hrun, ended⟩ := run_transactions x more
        (inProgress_startCommand (cs := cs) hl hs hd) hprog hlater
      refine ⟨t, ?_, ended.seq, ended.respValid, ended.cfg, ended.commands, ended.answers,
        ended.schedule, ?_⟩
      · have hstart := step_of_sequencerEvent hl hs (.starts hq hc hd ho)
        have count : requestCount (.accepted p.word (tsPort s.cfg p.ts) :: later) =
            requestCount later := rfl
        rw [count, Nat.add_comm, run_succ_next hstart]
        exact hrun
      · rw [ended.trace]
        simp
    · rw [if_neg ho, Option.some.injEq, Prod.mk.injEq] at hbig
      obtain ⟨rfl, rfl⟩ := hbig
      exact run_rejected hl hs hq hc (by simp [acceptError_ok hd, checkOf, ho])

/-- Settles O52: ACCEPT, then the transactions by induction. -/
theorem eventsOfACommandAreThoseOfTheBigStep : Obligations.EventsOfACommandAreThoseOfTheBigStep := by
  intro s p cs events left hl hq hs hc hbig
  obtain ⟨t, hrun, ended⟩ := run_bigStep hl hs hq hc hbig
  exact ⟨t, hrun, ended.seq, ended.respValid, ended.cfg, ended.commands, ended.answers, ended.schedule,
    ended.trace⟩

end Sys2Proof.Machine
end

section
/-! PROOFS. The events at the ports stay in the order of one command and one transaction at a time
(20_memory.md rule R44): each event is one transition of the protocol. -/

namespace Sys2Proof.Machine

open Safety

variable {s t : State} {es : List PortEvent}

/-- The protocol reads a record event by event. -/
theorem protocol_append_event {q : SeqState} (h : protocol es = some q) (e : PortEvent) :
    protocol (es ++ [e]) = protocolEvent q e := by
  rw [protocol, List.foldl_append, ← protocol, h]
  rfl

theorem protocol_accepted (h : protocol es = some .idle) (w : Word) (ts : Nat) :
    protocol (es ++ [.accepted w ts]) = some .issue := protocol_append_event h _

theorem protocol_requested (h : protocol es = some .issue) (q : Request) :
    protocol (es ++ [.requested q]) = some .wait := protocol_append_event h _

theorem protocol_answered (h : protocol es = some .wait) (a : Answer) :
    protocol (es ++ [.answered a]) = some .issue := protocol_append_event h _

theorem protocol_responded (h : protocol es = some .issue) (r : Response) :
    protocol (es ++ [.responded r]) = some .idle := protocol_append_event h _

theorem protocol_reset {q : SeqState} (h : protocol es = some q) :
    protocol (es ++ [.reset]) = some .idle := by
  rw [protocol_append_event h]
  cases q <;> rfl

theorem protocol_codec {q : SeqState} (h : protocol es = some q) (op : BitVec 2) (arg out : Word) :
    protocol (es ++ [.codec op arg out]) = some q := by
  rw [protocol_append_event h]
  cases q <;> rfl

theorem traceInOrder_iff_of_seq {q : SeqState} (hq : s.seq = q) :
    TraceInOrder s ↔ protocol s.trace = some q := by
  rw [TraceInOrder, hq]

/-- R44 for one event of the sequencer. -/
theorem SequencerEvent.traceInOrder (h : SequencerEvent s t) (hs : TraceInOrder s) :
    TraceInOrder t := by
  cases h with
  | waitsForCommand | waitsForAnswer => exact hs
  | rejects hq =>
    have idle := (traceInOrder_iff_of_seq hq).mp hs
    exact protocol_responded (protocol_accepted idle _ _) _
  | starts hq => exact protocol_accepted ((traceInOrder_iff_of_seq hq).mp hs) _ _
  | issues hq => exact protocol_requested ((traceInOrder_iff_of_seq hq).mp hs) _
  | fails hq | ends hq =>
    have wait := (traceInOrder_iff_of_seq hq).mp hs
    exact protocol_responded (protocol_answered wait _) _
  | goesOn hq => exact protocol_answered ((traceInOrder_iff_of_seq hq).mp hs) _

/-- Settles O51: an event of the sequencer is the transition of the protocol that its control state
allows, and RESET and the codec are allowed at any time. -/
theorem eventsStayInOrder : Obligations.EventsStayInOrder := by
  intro s t hs h
  cases StepEvent.of_step h with
  | reset => exact protocol_reset hs
  | codec => exact protocol_codec hs _ _ _
  | sequencer _ h => exact h.traceInOrder hs

end Sys2Proof.Machine
end

section
/-! PROOFS. What a step may request of the transport (20_memory.md rules R31, R35, R41, R48). -/

namespace Sys2Proof.Machine

open Safety

variable {s t : State}

/-- The requests among some events are requests of transactions of a command. -/
def RequestsFromPrograms (c : Config) (events : List PortEvent) : Prop :=
  ∀ q, .requested q ∈ events → ∃ i, ∃ x ∈ program c i, q = requestOf c x

theorem SequencerEvent.requests (h : SequencerEvent s t) :
    ∃ events, t.trace = s.trace ++ events ∧ RequestsFromPrograms s.cfg events := by
  cases h with
  | waitsForCommand | waitsForAnswer => exact ⟨[], by simp [RequestsFromPrograms]⟩
  | @issues i x hq hd hx =>
    refine ⟨_, rfl, fun q hmem => ⟨i, x, List.mem_of_getElem? hx, ?_⟩⟩
    simpa using hmem
  | starts | goesOn => exact ⟨_, rfl, by simp [RequestsFromPrograms]⟩
  | rejects | fails | ends => exact ⟨_, List.append_assoc .., by simp [RequestsFromPrograms]⟩

theorem StepEvent.requests (h : StepEvent s t) :
    ∃ events, t.trace = s.trace ++ events ∧ RequestsFromPrograms s.cfg events := by
  cases h with
  | reset | codec => exact ⟨_, rfl, by simp [RequestsFromPrograms]⟩
  | sequencer _ h => exact h.requests

/-- R48: a command reads one of the ten used registers or writes the configuration register. -/
theorem program_transaction {c : Config} {i : Instr} {x : Transaction} (h : x ∈ program c i) :
    (∃ r ∈ usedRegs, x = .read r) ∨ ∃ v, x = .write .config v := by
  unfold program at h
  split at h
  case h_7 | h_8 => exact .inr ⟨_, List.mem_singleton.mp h⟩
  case h_13 =>
    simp only [List.mem_cons, List.not_mem_nil, or_false] at h
    rcases h with rfl | rfl | rfl | rfl | rfl | rfl <;> exact .inl ⟨_, by decide, rfl⟩
  case h_14 => cases h
  all_goals exact .inl ⟨_, by decide, List.mem_singleton.mp h⟩

/-- Settles O46: the events of a step are fixed by the two traces, and every request among them is one of
the micro-sequences. -/
theorem onlyMappedRegistersAreReached : Obligations.OnlyMappedRegistersAreReached := by
  intro s t events q h htrace hmem
  obtain ⟨events', htrace', requests⟩ := (StepEvent.of_step h).requests
  obtain rfl : events = events' := List.append_cancel_left (htrace.symm.trans htrace')
  obtain ⟨i, x, hx, rfl⟩ := requests q hmem
  obtain ⟨r, used, rfl⟩ | ⟨v, rfl⟩ := program_transaction hx
  · exact .inl ⟨r, used, rfl⟩
  · exact .inr ⟨v, rfl⟩

/-- Settles O47, register by register of the default map (log 11). -/
theorem reachedRegistersAllowTheAccess : Obligations.ReachedRegistersAllowTheAccess :=
  ⟨by decide, rfl⟩

end Sys2Proof.Machine
end

section
/-! PROOFS. With enough answers every command ends with its response (20_memory.md rule R38,
70_reset_and_hazards.md rule R169): the big step is defined and bounded, and the machine runs it. -/

namespace Sys2Proof.Machine

open Safety

variable {s t : State}

/-- The transactions of a command never run out of answers when there is one for each, and send at most one
request each. -/
theorem transactions_of_answers (c : Config) (i : Instr) (ts : Nat) {prog : List Transaction}
    {raws : List Raw} {answers : List Answer} (enough : prog.length ≤ answers.length) :
    ∃ events left, transactions c i ts prog raws answers = some (events, left) ∧
      requestCount events ≤ prog.length := by
  induction prog generalizing raws answers with
  | nil => exact ⟨_, _, rfl, Nat.le_refl 0⟩
  | cons x more ih =>
    match answers with
    | [] => cases enough
    | .err code :: rest => exact ⟨_, _, rfl, Nat.succ_le_succ (Nat.zero_le _)⟩
    | .ok byte0 byte1 :: rest =>
      obtain ⟨later, left, hlater, count⟩ :=
        ih (raws := raws ++ [rawOfBytes byte0 byte1]) (Nat.le_of_succ_le_succ enough)
      refine ⟨[.requested (requestOf c x), .answered (.ok byte0 byte1)] ++ later, left, ?_, ?_⟩
      · rw [transactions, hlater, Option.map_some]
      · rw [requestCount_append, List.length_cons, Nat.add_comm]
        exact Nat.succ_le_succ count

/-- R38, R169: six answers are enough for the big step of any word, with at most six requests. -/
theorem bigStep_of_six_answers (c : Config) (p : Presented) {answers : List Answer}
    (enough : 6 ≤ answers.length) :
    ∃ events left, bigStep c p answers = some (events, left) ∧ requestCount events ≤ 6 := by
  unfold bigStep
  split
  · exact ⟨_, _, rfl, Nat.zero_le 6⟩
  next i _ =>
  split
  · have steps := program_length_le c i
    obtain ⟨events, left, hevents, count⟩ :=
      transactions_of_answers c i (tsPort c p.ts) (raws := []) (steps.trans enough)
    refine ⟨.accepted p.word (tsPort c p.ts) :: events, left, ?_, count.trans steps⟩
    rw [hevents, Option.map_some]
  · exact ⟨_, _, rfl, Nat.zero_le 6⟩

/-- R18: whatever the response registers held, after an ACCEPT they agree with the record. -/
theorem SequencerEvent.responseShown_of_accept {p : Presented} {cs : List Presented}
    (h : SequencerEvent s t) (hq : s.seq = .idle) (hc : s.commands = p :: cs) : ResponseShown t := by
  cases h with
  | waitsForCommand _ hnone => simp [hc] at hnone
  | rejects => exact responseShown_deliver _ _
  | starts => exact responseShown_none (currentResponse_accepted _ _ _) rfl
  | issues hbusy | waitsForAnswer hbusy | fails hbusy | goesOn hbusy | ends hbusy =>
    simp [hq] at hbusy

theorem step_responseShown_of_accept {p : Presented} {cs : List Presented} (h : step s = .next t)
    (hs : s.schedule = []) (hq : s.seq = .idle) (hc : s.commands = p :: cs) : ResponseShown t := by
  cases StepEvent.of_step h with
  | reset hturn | codec hturn => simp [hs] at hturn
  | sequencer _ h => exact h.responseShown_of_accept hq hc

theorem run_responseShown {n : Nat} (h : Host.Core.run Sys2Proof.core n s = .next t)
    (hs : ResponseShown s) : ResponseShown t := by
  induction n generalizing s with
  | zero =>
    cases (run_zero s).symm.trans h
    exact hs
  | succ n ih =>
    obtain ⟨u, hu, hrun⟩ := run_succ_cases h
    exact ih hrun (responseRegistersShowTheLastResponse s u hs hu)

/-- R58: registers that show a response hold its status code. -/
theorem shows_status {r : Response} (h : Shows s r) : s.respStatus = r.status := by
  match r, h with
  | .ok (.value _), h | .ok (.sample _), h | .ok .nothing, h | .error (.busError _), h => exact h.1
  | .error .invalidChannel, h | .error .illegalCommand, h => exact h

/-- R18: a valid response is the last one of the record. -/
theorem responseShown_valid (h : ResponseShown s) (hv : s.respValid = true) :
    ∃ r, currentResponse s.trace = some r ∧ s.respStatus = r.status := by
  unfold ResponseShown at h
  split at h
  · simp [h] at hv
  next r hr => exact ⟨r, hr, shows_status h.2⟩

/-- Settles O53: the big step of the command takes the machine through at most six requests to its
response, and from the ACCEPT on the registers show the response of the record. -/
theorem everyCommandEndsWhenTheTransportAnswers :
    Obligations.EveryCommandEndsWhenTheTransportAnswers := by
  intro s p cs hl hq hs hc enough
  obtain ⟨events, left, hbig, count⟩ := bigStep_of_six_answers s.cfg p enough
  obtain ⟨t, hrun, ended⟩ := run_bigStep hl hs hq hc hbig
  have steps : 1 + 2 * requestCount events ≤ 13 := by omega
  have shown : ResponseShown t := by
    obtain ⟨u, hu, hrest⟩ := run_succ_cases (Nat.add_comm 1 _ ▸ hrun)
    exact run_responseShown hrest (step_responseShown_of_accept hu hs hq hc)
  exact ⟨_, t, steps, hrun, ended.seq, ended.respValid, ended.commands,
    responseShown_valid shown ended.respValid⟩

end Sys2Proof.Machine
end

section
/-! PROOFS. The decoder and the encoder are inverse to each other (30_encoding.md rules R50 to R57): a port
word decodes to an instruction exactly when the instruction is well formed and the word is its encoding. -/

namespace Sys2Proof

/-! The opcode map (R53), and tests (1) and (2) of R52. -/

/-- The value of `w[31:24]` that stands for a command (R53). -/
def Opcode.code : Opcode → BitVec 8
  | .rdbus => 0x01#8
  | .rdshunt => 0x02#8
  | .config => 0x03#8
  | .defcfg => 0x04#8
  | .rdmfr => 0x05#8
  | .rddie => 0x06#8
  | .rdcfg => 0x07#8
  | .rdmask => 0x08#8
  | .sample => 0x09#8

theorem opcodeOf_eq_some_iff {b : BitVec 8} {c : Opcode} : opcodeOf b = some c ↔ b = c.code := by
  constructor
  · intro h
    unfold opcodeOf at h
    split at h
    case h_10 => cases h
    all_goals
      next hb =>
      cases h
      exact BitVec.eq_of_toNat_eq hb
  · rintro rfl
    cases c <;> rfl

theorem opcodeOf_eq_none_iff {b : BitVec 8} : opcodeOf b = none ↔ b = 0#8 ∨ 9 < b.toNat := by
  rw [← BitVec.toNat_inj]
  unfold opcodeOf
  split
  case h_10 =>
    simp only [imp_false, true_iff, BitVec.toNat_ofNat] at *
    omega
  all_goals simp [*]

theorem decodeCmd_of_fields {w : Word} {c : Opcode} (hop : field w 24 8 = c.code)
    (hres : field w 16 8 = 0#8) : decodeCmd w = commandInstr c w := by
  simp [decodeCmd, opcodeOf_eq_some_iff.mpr hop, hres]

theorem decodeCmd_cmdWord (c : Opcode) (operand : Raw) :
    decodeCmd (cmdWord c.code operand) = commandInstr c (cmdWord c.code operand) :=
  decodeCmd_of_fields (cmdWord_opcode _ _) (cmdWord_reserved _ _)

/-- A word decodes only where tests (1) and (2) pass. -/
theorem decodeCmd_ok {w : Word} {i : Instr} (h : decodeCmd w = .ok i) :
    ∃ c : Opcode, field w 24 8 = c.code ∧ field w 16 8 = 0#8 ∧ commandInstr c w = .ok i := by
  unfold decodeCmd at h
  split at h
  · cases h
  next c hop =>
  split at h
  next hres => exact ⟨c, opcodeOf_eq_some_iff.mp hop, hres, h⟩
  · cases h

/-! The operand of CONFIG (R54). -/

/-- A flag is a field of one bit. -/
theorem ofBool_getLsbD (w : Word) (k : Nat) : BitVec.ofBool (w.getLsbD k) = field w k 1 := by
  apply BitVec.eq_of_getLsbD_eq
  intro j hj
  obtain rfl : j = 0 := by omega
  simp

/-- A bit below 16 is a bit of the operand. -/
theorem getLsbD_operand (w : Word) {k : Nat} (hk : k < 16) :
    w.getLsbD k = (field w 0 16).getLsbD k := by
  simp [hk]

/-- The settings of a word whose operand was written from a settings record. -/
theorem settingsOf_of_operand {w : Word} {s : Settings} (h : field w 0 16 = settingsOperand s) :
    settingsOf w = s := by
  have flag {k : Nat} (hk : k < 16) : w.getLsbD k = (settingsOperand s).getLsbD k := by
    rw [getLsbD_operand w hk, h]
  have code {lo : Nat} (hlo : lo + 3 ≤ 16) :
      field w lo 3 = (settingsOperand s).extractLsb' lo 3 := by
    rw [← h, BitVec.extractLsb'_extractLsb'_of_le hlo]
  rw [settingsOf, flag (k := 14) (by decide), flag (k := 13) (by decide), flag (k := 12) (by decide),
    code (lo := 9) (by decide), code (lo := 6) (by decide), code (lo := 3) (by decide),
    code (lo := 0) (by decide)]
  simp only [settingsOperand, BitVec.getLsbD_append, BitVec.extractLsb'_append_eq_ite]
  simp

/-- The seven fields cover the operand but for bit 15. -/
theorem settingsOperand_settingsOf {w : Word} (h15 : w.getLsbD 15 = false) :
    settingsOperand (settingsOf w) = field w 0 16 := by
  have bit15 : 0#1 = field w 15 1 := by rw [← ofBool_getLsbD, h15]; rfl
  simp only [settingsOperand, settingsOf, ofBool_getLsbD, bit15,
    BitVec.extractLsb'_append_extractLsb'_eq_extractLsb']

/-! The CMD format (R51): tests (3) and (4) of R52, and the operand. -/

theorem withoutOperand_cmdWord (opcode : BitVec 8) (i : Instr) :
    withoutOperand (cmdWord opcode 0#16) i = .ok i :=
  if_pos (cmdWord_operand opcode 0#16)

/-- Test (4) passed. -/
theorem commandInstr_config {w : Word} (h15 : w.getLsbD 15 = false) :
    commandInstr .config w = .ok (.config (settingsOf w)) := by
  rw [commandInstr, h15]
  rfl

theorem commandInstr_config_cmdWord (s : Settings) :
    commandInstr .config (cmdWord 0x03#8 (settingsOperand s)) = .ok (.config s) := by
  have operand := cmdWord_operand 0x03#8 (settingsOperand s)
  have bit15 : (cmdWord 0x03#8 (settingsOperand s)).getLsbD 15 = false := by
    rw [getLsbD_operand _ (by decide), operand, Laws.settingsOperand_bit15]
  rw [commandInstr_config bit15, settingsOf_of_operand operand]

/-- A channel numeral is read back from its operand. -/
theorem toNat_ofNat_of_channelNumeral {ch : Nat} (h : channelNumeral ch = true) :
    (BitVec.ofNat 16 ch).toNat = ch :=
  Nat.mod_eq_of_lt (of_decide_eq_true h)

/-- What passes tests (3) and (4) is put together again from the opcode and the operand. -/
theorem encode_of_commandInstr {c : Opcode} {w : Word} {i : Instr} (h : commandInstr c w = .ok i) :
    encode i = .cmd (cmdWord c.code (field w 0 16)) := by
  have plain {j : Instr} (h : withoutOperand w j = .ok i)
      (hj : encode j = .cmd (cmdWord c.code 0#16)) :
      encode i = .cmd (cmdWord c.code (field w 0 16)) := by
    obtain ⟨hz, rfl⟩ := withoutOperand_ok h
    rw [hj, hz]
  cases c with
  | rdbus | rdshunt =>
    cases h
    rw [encode, BitVec.ofNat_toNat, BitVec.setWidth_eq, Opcode.code]
  | config =>
    rw [commandInstr] at h
    split at h
    · cases h
    next h15 =>
    cases h
    rw [encode, settingsOperand_settingsOf (by simpa using h15), Opcode.code]
  | _ => exact plain h rfl

theorem encode_of_decodeCmd {w : Word} {i : Instr} (h : decodeCmd w = .ok i) : encode i = .cmd w := by
  obtain ⟨c, hop, hres, hi⟩ := decodeCmd_ok h
  rw [encode_of_commandInstr hi, ← hop, cmdWord_of_fields hres]

/-! The CODEC format (R55). -/

/-- The instruction of the two inputs of the codec port. -/
def codecInstr (op : BitVec 2) (arg : Word) : Instr :=
  match op.toNat with
  | 0 => .decbus (field arg 16 16) (field arg 0 16)
  | 1 => .decshunt (field arg 16 16) (field arg 0 16)
  | 2 => .encbus arg.toInt
  | _ => .encshunt arg.toInt

theorem codecWord_upperHalf (op : BitVec 2) (arg : Word) :
    (codecWord op arg).extractLsb' 16 16 = field arg 16 16 :=
  BitVec.extractLsb'_append_eq_of_add_le (w := 32) (by decide)

theorem decodeCodec_codecWord (op : BitVec 2) (arg : Word) :
    decodeCodec (codecWord op arg) = codecInstr op arg := by
  rw [decodeCodec, Machine.codecWord_op, Machine.codecWord_raw, Machine.codecWord_arg,
    codecWord_upperHalf]
  rfl

theorem codecWord_of_fields (p : BitVec 34) :
    codecWord (p.extractLsb' 32 2) (p.extractLsb' 0 32) = p :=
  BitVec.extractLsb'_append_extractLsb' (w := 2) (len := 32)

theorem field_append_lower (upper raw : Raw) : field (upper ++ raw : Word) 0 16 = raw :=
  BitVec.extractLsb'_append_eq_right

theorem field_append_upper (upper raw : Raw) : field (upper ++ raw : Word) 16 16 = upper :=
  BitVec.extractLsb'_append_eq_left

/-- An encode argument is read back from its pattern. -/
theorem toInt_ofInt_of_signedMicrovolts {phys : Int} (h : signedMicrovolts phys = true) :
    (BitVec.ofInt 32 phys).toInt = phys := by
  simp only [signedMicrovolts, Bool.and_eq_true, decide_eq_true_eq] at h
  obtain ⟨low, high⟩ := h
  exact Machine.microvolts_toInt low high

theorem encode_codecInstr (op : BitVec 2) (arg : Word) :
    encode (codecInstr op arg) = .codec (codecWord op arg) := by
  have halves : field arg 16 16 ++ field arg 0 16 = arg :=
    BitVec.extractLsb'_append_extractLsb' (w := 16) (len := 16)
  unfold codecInstr
  split
  next h0 => rw [encode, halves, ← BitVec.eq_of_toNat_eq (y := 0b00#2) h0]
  next h1 => rw [encode, halves, ← BitVec.eq_of_toNat_eq (y := 0b01#2) h1]
  next h2 => rw [encode, BitVec.ofInt_toInt, ← BitVec.eq_of_toNat_eq (y := 0b10#2) h2]
  next h0 h1 h2 =>
    simp only [imp_false] at h0 h1 h2
    have h3 : op.toNat = 3 := by omega
    rw [encode, BitVec.ofInt_toInt, ← BitVec.eq_of_toNat_eq (y := 0b11#2) h3]

/-! Both formats. -/

theorem decode_wellFormed {p : PortWord} {i : Instr} (h : decode p = .ok i) : i.wellFormed = true := by
  cases p with
  | cmd w => exact decodeCmd_wellFormed h
  | codec p =>
    cases h
    exact decodeCodec_wellFormed p

/-- R53 to R55: no bit of a word that decodes is dropped. -/
theorem encode_of_decode {p : PortWord} {i : Instr} (h : decode p = .ok i) : encode i = p := by
  cases p with
  | cmd w => exact encode_of_decodeCmd h
  | codec p =>
    cases h
    rw [← codecWord_of_fields p, decodeCodec_codecWord, encode_codecInstr]

/-- R53 to R55: every operand is read back from the word that the encoder writes. -/
theorem decode_encode {i : Instr} (h : i.wellFormed = true) : decode (encode i) = .ok i := by
  have plain {j : Instr} (c : Opcode)
      (hc : commandInstr c (cmdWord c.code 0#16) = withoutOperand (cmdWord c.code 0#16) j) :
      decodeCmd (cmdWord c.code 0#16) = .ok j := by
    rw [decodeCmd_cmdWord, hc, withoutOperand_cmdWord]
  cases i with
  | rdbus ch =>
    refine (decodeCmd_cmdWord .rdbus _).trans ?_
    rw [commandInstr, cmdWord_operand, toNat_ofNat_of_channelNumeral h]
  | rdshunt ch =>
    refine (decodeCmd_cmdWord .rdshunt _).trans ?_
    rw [commandInstr, cmdWord_operand, toNat_ofNat_of_channelNumeral h]
  | config s => exact (decodeCmd_cmdWord .config _).trans (commandInstr_config_cmdWord s)
  | defcfg => exact plain .defcfg rfl
  | rdmfr => exact plain .rdmfr rfl
  | rddie => exact plain .rddie rfl
  | rdcfg => exact plain .rdcfg rfl
  | rdmask => exact plain .rdmask rfl
  | sample => exact plain .sample rfl
  | decbus | decshunt =>
    rw [encode, decode, decodeCodec_codecWord]
    simp [codecInstr, field_append_lower, field_append_upper]
  | encbus | encshunt =>
    rw [encode, decode, decodeCodec_codecWord]
    simp only [codecInstr, toInt_ofInt_of_signedMicrovolts h]
    rfl

theorem decode_eq_ok_iff {p : PortWord} {i : Instr} :
    decode p = .ok i ↔ i.wellFormed = true ∧ encode i = p := by
  constructor
  · exact fun h => ⟨decode_wellFormed h, encode_of_decode h⟩
  · rintro ⟨wf, rfl⟩
    exact decode_encode wf

/-- Settles O25, format by format: `decode_encode`. -/
theorem decodeReadsBackEveryEncoding : Obligations.DecodeReadsBackEveryEncoding :=
  fun _ => decode_encode

/-- Settles O26: a word is put together again from the fields that the decoder reads. -/
theorem encodeReadsBackEveryDecoding : Obligations.EncodeReadsBackEveryDecoding :=
  fun _ _ => encode_of_decode

/-- Settles O30: each word is the encoding of its instruction. -/
theorem sampleWordsDecode : Obligations.SampleWordsDecode := by
  refine ⟨?_, ?_, ?_, ?_, ?_, ?_⟩ <;> exact decode_eq_ok_iff.mpr (by decide)

/-- Settles O31, by the assembler on each line. -/
theorem textualFormGivesTheExamplesWords : Obligations.TextualFormGivesTheExamplesWords := by
  refine ⟨?_, ?_, ?_, ?_⟩ <;> decide

end Sys2Proof
end

section
/-! PROOFS. The rows of the opcode table (30_encoding.md rule R53): a word is of the row of every instruction
that it decodes to, and a command word of a row decodes to an instruction of that row. -/

namespace Sys2Proof

/-- Every well-formed instruction is encoded in its row. -/
theorem encode_ofRow (i : Instr) : Laws.EncodedRow.Statement i := by
  cases i with
  | rdbus ch => exact Laws.EncodedRow.rdbus ch
  | rdshunt ch => exact Laws.EncodedRow.rdshunt ch
  | config s => exact Laws.EncodedRow.config s
  | defcfg => exact Laws.EncodedRow.defcfg
  | rdmfr => exact Laws.EncodedRow.rdmfr
  | rddie => exact Laws.EncodedRow.rddie
  | rdcfg => exact Laws.EncodedRow.rdcfg
  | rdmask => exact Laws.EncodedRow.rdmask
  | sample => exact Laws.EncodedRow.sample
  | decbus ignored raw => exact Laws.EncodedRow.decbus ignored raw
  | decshunt ignored raw => exact Laws.EncodedRow.decshunt ignored raw
  | encbus phys => exact Laws.EncodedRow.encbus phys
  | encshunt phys => exact Laws.EncodedRow.encshunt phys

theorem ofRow_of_decode {p : PortWord} {i : Instr} (h : decode p = .ok i) :
    p.ofRow (tableRow i) = true := by
  rw [← encode_of_decode h]
  exact encode_ofRow i (decode_wellFormed h)

/-- A command word is of a row exactly when it is one as a bit vector. -/
theorem cmd_ofRow_iff {w m v : Word} :
    (PortWord.cmd w).ofRow ⟨v.toNat, m.toNat⟩ = true ↔ w &&& m = v := by
  rw [PortWord.ofRow, decide_eq_true_iff, ← BitVec.toNat_inj, BitVec.toNat_and, PortWord.number]

theorem field_and (w m : Word) (lo width : Nat) :
    field (w &&& m) lo width = field w lo width &&& field m lo width :=
  BitVec.extractLsb'_and

/-- The mask keeps a field that it covers. -/
theorem field_of_masked {w m v : Word} {lo width : Nat} (h : w &&& m = v)
    (cover : field m lo width = BitVec.allOnes width) : field w lo width = field v lo width := by
  rw [← h, field_and, cover, BitVec.and_allOnes]

/-- R53 for a row whose mask covers the opcode and the reserved field. -/
theorem decodeCmd_of_upperRow {w m : Word} {c : Opcode}
    (h : (PortWord.cmd w).ofRow ⟨(cmdWord c.code 0#16).toNat, m.toNat⟩ = true)
    (hop : field m 24 8 = BitVec.allOnes 8) (hres : field m 16 8 = BitVec.allOnes 8) :
    decodeCmd w = commandInstr c w := by
  have hw := cmd_ofRow_iff.mp h
  exact decodeCmd_of_fields ((field_of_masked hw hop).trans (cmdWord_opcode _ _))
    ((field_of_masked hw hres).trans (cmdWord_reserved _ _))

/-- R53 for the rows that fix the whole word. -/
theorem decodeCmd_of_wholeWordRow {w v : Word} {i : Instr} (henc : encode i = .cmd v)
    (hrow : tableRow i = ⟨v.toNat, (BitVec.allOnes 32).toNat⟩) (wf : i.wellFormed = true)
    (h : (PortWord.cmd w).ofRow (tableRow i) = true) : decodeCmd w = .ok i := by
  rw [hrow, cmd_ofRow_iff, BitVec.and_allOnes] at h
  rw [h]
  exact decode_eq_ok_iff.mpr ⟨wf, henc⟩

theorem decodeCmd_of_ofRow {w : Word} {i : Instr} (hi : Safety.isCommand i = true)
    (h : (PortWord.cmd w).ofRow (tableRow i) = true) :
    ∃ j, decodeCmd w = .ok j ∧ tableRow j = tableRow i := by
  cases i with
  | rdbus => exact ⟨_, decodeCmd_of_upperRow (m := 0xFFFF0000#32) (c := .rdbus) h rfl rfl, rfl⟩
  | rdshunt => exact ⟨_, decodeCmd_of_upperRow (m := 0xFFFF0000#32) (c := .rdshunt) h rfl rfl, rfl⟩
  | config =>
    have masked := cmd_ofRow_iff (m := 0xFFFF8000#32) (v := 0x03000000#32).mp h
    have bit15 : w.getLsbD 15 = false := by
      simpa using congrArg (BitVec.getLsbD · 15) masked
    refine ⟨.config (settingsOf w), ?_, rfl⟩
    rw [decodeCmd_of_upperRow (m := 0xFFFF8000#32) (c := .config) h rfl rfl, commandInstr_config bit15]
  | decbus | decshunt | encbus | encshunt => cases hi
  | _ => exact ⟨_, decodeCmd_of_wholeWordRow rfl rfl rfl h, rfl⟩

/-- Settles O27: the encoder writes words of the row, and the mask keeps the fields that the decoder
tests. -/
theorem opcodeRowsDecideTheCommand : Obligations.OpcodeRowsDecideTheCommand :=
  ⟨fun _ _ => ofRow_of_decode, fun _ _ => decodeCmd_of_ofRow⟩

end Sys2Proof
end

section
/-! PROOFS. What becomes of a command word at an IDLE sequencer (30_encoding.md rule R52): the tests of the
rule against the decoder and the operand test of ACCEPT. -/

namespace Sys2Proof.Machine

open Safety

/-- Tests (3) and (4) of R52. -/
theorem commandInstr_error_iff {c : Opcode} {w : Word} : (∃ e, commandInstr c w = .error e) ↔
    (4 ≤ c.code.toNat ∧ field w 0 16 ≠ 0#16) ∨ (c.code = 3#8 ∧ w.getLsbD 15 = true) := by
  have plain (i : Instr) : (∃ e, withoutOperand w i = .error e) ↔ field w 0 16 ≠ 0#16 := by
    unfold withoutOperand
    split <;> simp [*]
  cases c with
  | rdbus | rdshunt => simp [commandInstr, Opcode.code]
  | config =>
    rw [commandInstr]
    cases w.getLsbD 15 <;> simp [Opcode.code]
  | _ => simp [commandInstr, Opcode.code, plain]

/-- Tests (1) to (4) of R52 are those of the decoder. -/
theorem illegalWord_iff {w : Word} : IllegalWord w ↔ ∃ e, decodeCmd w = .error e := by
  cases hop : opcodeOf (field w 24 8) with
  | none =>
    have illegal : IllegalWord w := .inl (opcodeOf_eq_none_iff.mp hop)
    simp [illegal, decodeCmd, hop]
  | some c =>
    have known : ¬(field w 24 8 = 0#8 ∨ 9 < (field w 24 8).toNat) := by
      rw [← opcodeOf_eq_none_iff, hop]
      simp
    have hcode := opcodeOf_eq_some_iff.mp hop
    by_cases hres : field w 16 8 = 0#8
    · rw [decodeCmd_of_fields hcode hres, commandInstr_error_iff, IllegalWord, ← hcode]
      simp only [known, hres, ne_eq, not_true_eq_false, false_or]
    · have illegal : IllegalWord w := .inr (.inl hres)
      simp [illegal, decodeCmd, hop, hres]

/-- Test (5) of R52 is the operand test of the command. -/
theorem badChannelWord_iff {w : Word} {i : Instr} (h : decodeCmd w = .ok i) :
    BadChannelWord w ↔ operandOk i = false := by
  have channel {ch : Nat} (hch : channelNumeral ch = true) :
      (BitVec.ofNat 16 ch ≠ 1#16 ∧ BitVec.ofNat 16 ch ≠ 2#16 ∧ BitVec.ofNat 16 ch ≠ 3#16) ↔
        validChannel ch = false := by
    simp [← BitVec.toNat_inj, toNat_ofNat_of_channelNumeral hch, validChannel]
  have wf := decodeCmd_wellFormed h
  have henc := encode_of_decodeCmd h
  cases i with
  | rdbus ch | rdshunt ch =>
    cases henc
    simp [BadChannelWord, cmdWord_opcode, cmdWord_operand, operandOk, ← channel wf]
  | decbus | decshunt | encbus | encshunt => cases henc
  | _ =>
    cases henc
    simp [BadChannelWord, cmdWord_opcode, operandOk]

/-- The events of an ACCEPT that raises an error. -/
theorem trace_of_reject (k : ErrorKind) (p : Presented) (cs : List Presented) (s : State) :
    (deliver (.error k) (openCommand p cs s)).trace =
      s.trace ++ [.accepted p.word (tsPort s.cfg p.ts), .responded (.error k)] := by
  simp

/-- Settles O28: an illegal word, a bad channel, or a command that starts, each by its ACCEPT. -/
theorem outcomeOfEveryCommandWord : Obligations.OutcomeOfEveryCommandWord := by
  intro s p cs hl hq hs hc
  by_cases illegal : IllegalWord p.word
  · obtain ⟨e, hd⟩ := illegalWord_iff.mp illegal
    have event := SequencerEvent.rejects hq hc (acceptError_illegal hd)
    exact ⟨_, _, step_of_sequencerEvent hl hs event, trace_of_reject _ p cs s, rfl,
      fun _ => ⟨rfl, rfl, rfl, rfl⟩, fun legal => absurd illegal legal,
      fun legal => absurd illegal legal⟩
  have decodes : ∃ i, decodeCmd p.word = .ok i := by
    cases hd : decodeCmd p.word with
    | error e => exact absurd (illegalWord_iff.mpr ⟨e, hd⟩) illegal
    | ok i => exact ⟨i, rfl⟩
  obtain ⟨i, hd⟩ := decodes
  by_cases bad : BadChannelWord p.word
  · have error : acceptError p.word = some .invalidChannel := by
      simp [acceptError_ok hd, checkOf, (badChannelWord_iff hd).mp bad]
    exact ⟨_, _, step_of_sequencerEvent hl hs (.rejects hq hc error), trace_of_reject _ p cs s, rfl,
      fun word => absurd word illegal, fun _ _ => ⟨rfl, rfl, rfl, rfl⟩,
      fun _ good => absurd bad good⟩
  · have ok : operandOk i = true := by simpa [badChannelWord_iff hd] using bad
    exact ⟨_, _, step_of_sequencerEvent hl hs (.starts hq hc hd ok), rfl, rfl,
      fun word => absurd word illegal, fun _ word => absurd word bad,
      fun _ _ => ⟨rfl, rfl, rfl, rfl⟩⟩

end Sys2Proof.Machine
end

section
/-! PROOFS. What a decode reads of the codec port (30_encoding.md rule R55), what DEFCFG writes (rule R61,
42_configuration.md rule R114), and the status codes (rule R58). -/

namespace Sys2Proof.Machine

/-- Settles O11: the decodes are functions of `codec_in[15:0]`. -/
theorem decodesIgnoreTheUpperHalf : Obligations.DecodesIgnoreTheUpperHalf := by
  intro c upper upper' raw
  have decbus (upper : Raw) : codecPort c 0b00#2 (upper ++ raw) = microvolts (decBus c raw) :=
    congrArg (fun raw => microvolts (decBus c raw)) (field_append_lower upper raw)
  have decshunt (upper : Raw) : codecPort c 0b01#2 (upper ++ raw) = microvolts (decShunt c raw) :=
    congrArg (fun raw => microvolts (decShunt c raw)) (field_append_lower upper raw)
  exact ⟨(decbus upper).trans (decbus upper').symm, (decshunt upper).trans (decshunt upper').symm⟩

/-- Settles O24: a legal configuration has the settings record (R114), and both commands write the
configuration register. -/
theorem defcfgIsConfigOfTheDefaultSettings : Obligations.DefcfgIsConfigOfTheDefaultSettings := by
  intro c legal
  obtain ⟨-, -, -, s0, en1, en2, en3, packed⟩ := c.legal_iff.mp legal
  refine ⟨s0, en1, en2, en3, packed, ?_⟩
  rintro s rfl
  exact congrArg (configWriteEvent · s) packed.symm

/-- Settles O34, kind by kind. -/
theorem statusCodesAreTheFour : Obligations.StatusCodesAreTheFour :=
  ⟨fun _ => rfl, rfl, fun _ => rfl, rfl, status_le_three⟩

end Sys2Proof.Machine
end

section
/-! PROOFS. The fields of a raw value (40_codec.md rules R70, R71): the count above three padding bits, and
the sign bit. -/

namespace Sys2Proof.Machine

theorem count_eq_toInt_extractLsb' (raw : Raw) : count raw = (raw.extractLsb' 3 13).toInt := by
  rw [count_eq, BitVec.toInt_eq_toNat_cond, BitVec.toInt_eq_toNat_cond, BitVec.extractLsb'_toNat,
    Nat.shiftRight_eq_div_pow]
  omega

theorem count_neg_iff (raw : Raw) : count raw < 0 ↔ raw.getLsbD 15 = true := by
  rw [show raw.getLsbD 15 = raw.msb from rfl, BitVec.msb_eq_toInt, decide_eq_true_iff, count_eq]
  omega

theorem count_ne_zero_iff (raw : Raw) : count raw ≠ 0 ↔ 7 < raw.toNat := by
  rw [count_eq, BitVec.toInt_eq_toNat_cond]
  omega

/-- Without its three padding bits a raw value is eight times its count. -/
theorem toInt_and_padding (raw : Raw) : (raw &&& 0xFFF8#16).toInt = 8 * count raw := by
  have shifts : raw &&& 0xFFF8#16 = raw >>> 3 <<< 3 := by
    apply BitVec.eq_of_getLsbD_eq
    intro k hk
    interval_cases k <;> simp
  rw [shifts, count_eq, BitVec.toInt_eq_toNat_cond, BitVec.toInt_eq_toNat_cond, BitVec.toNat_shiftLeft,
    BitVec.toNat_ushiftRight, Nat.shiftLeft_eq, Nat.shiftRight_eq_div_pow]
  omega

/-- Settles O1: the floor of a quotient of integers is their division, and the field is `raw[15:3]`. -/
theorem countIsTheSigned13BitField : Obligations.CountIsTheSigned13BitField := by
  intro raw
  have floor : count raw = ⌊(raw.toInt : ℚ) / 8⌋ := (Rat.floor_intCast_div_natCast raw.toInt 8).symm
  exact ⟨floor, (count_range raw).1, (count_range raw).2, count_eq_toInt_extractLsb' raw⟩

end Sys2Proof.Machine
end

section
/-! PROOFS. Rounding to the nearest integer, a tie away from zero (00_scope.md section 5, D5): `rndDiv` finds
the nearest integer, which grows with the dividend and so is the only one. -/

namespace Sys2Proof.Machine

open Safety

variable {x y p q : Int} {d : Nat}

theorem rndDiv_natCast (hd : 0 < d) (n : Nat) : rndDiv n d = ((2 * n + d) / (2 * d) : Nat) := by
  rcases Nat.eq_zero_or_pos n with rfl | hn
  · have half : d / (2 * d) = 0 := Nat.div_eq_of_lt (by omega)
    simp [rndDiv, half]
  · simp [rndDiv, Int.sign_natCast_of_ne_zero hn.ne']

theorem rndDiv_neg (x : Int) (d : Nat) : rndDiv (-x) d = -rndDiv x d := by
  simp [rndDiv]

theorem nearest_neg (h : Nearest x d q) : Nearest (-x) d (-q) := by
  have distance : -x - -(q * d) = -(x - q * d) := by ring
  simpa only [Nearest, neg_mul, distance, abs_neg] using h

theorem nearest_rndDiv_natCast (hd : 0 < d) (n : Nat) : Nearest n d (rndDiv n d) := by
  have low := Nat.div_mul_le_self (2 * n + d) (2 * d)
  have high := Nat.lt_div_mul_add (a := 2 * n + d) (b := 2 * d) (by omega)
  rw [rndDiv_natCast hd]
  generalize (2 * n + d) / (2 * d) = k at low high ⊢
  rw [Nat.mul_left_comm] at low high
  rw [Nearest, ← Nat.cast_mul, Nat.abs_cast, Nat.abs_cast]
  rcases abs_cases ((n : Int) - (k * d : Nat)) with ⟨habs, -⟩ | ⟨habs, -⟩ <;> rw [habs] <;> omega

theorem nearest_rndDiv (hd : 0 < d) (x : Int) : Nearest x d (rndDiv x d) := by
  obtain ⟨n, rfl | rfl⟩ := x.eq_nat_or_neg
  · exact nearest_rndDiv_natCast hd n
  · rw [rndDiv_neg]
    exact nearest_neg (nearest_rndDiv_natCast hd n)

theorem nearest_mul (hd : 0 < d) (q : Int) : Nearest (q * d) d q := by
  simp [Nearest, eq_comm (a := (0 : Int)), hd.ne']

/-- A dividend half a unit above its nearest multiple is negative. -/
theorem neg_of_nearest_of_tie_above (h : Nearest x d q) (tie : 2 * x = 2 * (q * d) + d) : q < 0 := by
  obtain ⟨-, away⟩ := h
  by_contra! hq
  have hm : 0 ≤ q * (d : Int) := by positivity
  rw [abs_of_nonneg (a := x - q * d) (by omega), abs_of_nonneg (a := x) (by omega), abs_of_nonneg hm] at away
  omega

/-- A dividend half a unit below its nearest multiple is positive. -/
theorem pos_of_nearest_of_tie_below (h : Nearest x d q) (tie : 2 * x = 2 * (q * d) - d) : 0 < q := by
  have := neg_of_nearest_of_tie_above (nearest_neg h) (by rw [neg_mul]; omega)
  omega

/-- Two dividends in the wrong order could only be one tie between neighbours, which is rounded down below
zero and up above it. -/
theorem nearest_mono (hp : Nearest x d p) (hq : Nearest y d q) (hd : 0 < d) (h : x ≤ y) : p ≤ q := by
  by_contra! hlt
  have apart : q * (d : Int) + d ≤ p * d := by
    rw [← add_one_mul]
    exact mul_le_mul_of_nonneg_right hlt (Int.natCast_nonneg d)
  have hx := neg_le_of_abs_le (show |x - p * d| ≤ d / 2 by have := hp.1; omega)
  have hy := le_of_abs_le (show |y - q * d| ≤ d / 2 by have := hq.1; omega)
  have neg : q < 0 := neg_of_nearest_of_tie_above hq (by omega)
  have pos : 0 < p := pos_of_nearest_of_tie_below hp (by omega)
  have neighbours : p = q + 1 := by
    have : p * (d : Int) = (q + 1) * d := by rw [add_one_mul]; omega
    exact mul_right_cancel₀ (Int.natCast_ne_zero.mpr hd.ne') this
  omega

theorem rndDiv_mono (hd : 0 < d) (h : x ≤ y) : rndDiv x d ≤ rndDiv y d :=
  nearest_mono (nearest_rndDiv hd x) (nearest_rndDiv hd y) hd h

theorem rndDiv_mul (hd : 0 < d) (q : Int) : rndDiv (q * d) d = q :=
  le_antisymm (nearest_mono (nearest_rndDiv hd _) (nearest_mul hd q) hd le_rfl)
    (nearest_mono (nearest_mul hd q) (nearest_rndDiv hd _) hd le_rfl)

end Sys2Proof.Machine
end

section
/-! PROOFS. Encode and decode as functions of numbers (40_codec.md rules R72, R74, R79): what the pattern of
an encode is, and the laws of the pair. -/

namespace Sys2Proof.Machine

theorem toInt_encodeVolts (lsb : Nat) (phys : Int) :
    (encodeVolts lsb phys).toInt = 8 * sat13 (rndDiv phys lsb) :=
  shl_toInt (sat13_range _)

theorem count_encodeVolts (lsb : Nat) (phys : Int) :
    count (encodeVolts lsb phys) = sat13 (rndDiv phys lsb) := by
  rw [count_eq, toInt_encodeVolts]
  omega

theorem encodeVolts_padding (lsb : Nat) (phys : Int) : (encodeVolts lsb phys).extractLsb' 0 3 = 0#3 := by
  apply BitVec.eq_of_toNat_eq
  have h := toInt_encodeVolts lsb phys
  rw [BitVec.toInt_eq_toNat_cond] at h
  simp only [BitVec.extractLsb'_toNat, Nat.shiftRight_zero, BitVec.toNat_ofNat]
  omega

theorem sat13_mono {i j : Int} (h : i ≤ j) : sat13 i ≤ sat13 j := by
  unfold sat13
  omega

variable {lsb : Nat}

theorem pos_of_lsbInRange (h : lsbInRange lsb = true) : 0 < lsb :=
  ((lsbInRange_iff lsb).mp h).1

theorem sat13_rndDiv_decodeVolts (hl : 0 < lsb) (raw : Raw) :
    sat13 (rndDiv (decodeVolts lsb raw) lsb) = count raw := by
  rw [decodeVolts, rndDiv_mul hl, sat13_of_range (count_range raw)]

theorem encodeVolts_decodeVolts (hl : 0 < lsb) (raw : Raw) :
    encodeVolts lsb (decodeVolts lsb raw) = raw &&& 0xFFF8#16 := by
  apply BitVec.eq_of_toInt_eq
  rw [toInt_encodeVolts, sat13_rndDiv_decodeVolts hl, toInt_and_padding]

theorem decodeVolts_encodeVolts_decodeVolts (hl : 0 < lsb) (raw : Raw) :
    decodeVolts lsb (encodeVolts lsb (decodeVolts lsb raw)) = decodeVolts lsb raw := by
  rw [decodeVolts, count_encodeVolts, sat13_rndDiv_decodeVolts hl, ← decodeVolts]

theorem decodeVolts_mono (lsb : Nat) {a b : Raw} (h : a.toInt ≤ b.toInt) :
    decodeVolts lsb a ≤ decodeVolts lsb b :=
  mul_le_mul_of_nonneg_right (Int.ediv_le_ediv (by decide) h) (Int.natCast_nonneg lsb)

theorem encodeVolts_mono (hl : 0 < lsb) {x y : Int} (h : x ≤ y) :
    (encodeVolts lsb x).toInt ≤ (encodeVolts lsb y).toInt := by
  rw [toInt_encodeVolts, toInt_encodeVolts]
  have := sat13_mono (rndDiv_mono hl h)
  omega

theorem decodeVolts_neg_iff (hl : 0 < lsb) (raw : Raw) :
    decodeVolts lsb raw < 0 ↔ raw.getLsbD 15 = true := by
  rw [← count_neg_iff]
  have hl : (0 : Int) < lsb := Int.natCast_pos.mpr hl
  exact ⟨(neg_of_mul_neg_left · hl.le), (mul_neg_of_neg_of_pos · hl)⟩

theorem rndDiv_range (hl : 0 < lsb) {phys : Int} (low : -4096 * (lsb : Int) ≤ phys)
    (high : phys ≤ 4095 * (lsb : Int)) : -4096 ≤ rndDiv phys lsb ∧ rndDiv phys lsb ≤ 4095 :=
  ⟨(rndDiv_mul hl _).symm.trans_le (rndDiv_mono hl low),
    (rndDiv_mono hl high).trans_eq (rndDiv_mul hl _)⟩

/-- Settles O6: rounding a whole multiple of the scale gives the count back (R79 (a), (b), (e)). -/
theorem encodeInvertsDecodeUpToPadding : Obligations.EncodeInvertsDecodeUpToPadding := by
  intro lsb raw h
  have hl := pos_of_lsbInRange h
  have zero : count 0x0000#16 = 0 := by decide
  exact ⟨encodeVolts_decodeVolts hl raw, decodeVolts_encodeVolts_decodeVolts hl raw,
    by rw [decodeVolts, zero, zero_mul]⟩

/-- Settles O7: the sign is that of the count, and each function in the two chains is monotonic. -/
theorem codecKeepsSignAndOrder : Obligations.CodecKeepsSignAndOrder := by
  intro lsb h
  have hl := pos_of_lsbInRange h
  refine ⟨fun raw => ⟨(decodeVolts_neg_iff hl raw).mpr, fun sign => ?_⟩,
    fun _ _ => decodeVolts_mono lsb, fun _ _ => encodeVolts_mono hl⟩
  rw [← not_lt, decodeVolts_neg_iff hl, sign]
  exact Bool.false_ne_true

/-- Settles O8: the magnitudes are those of the count times two different scales. -/
theorem theTwoDecodesDifferOutsideZeroCount : Obligations.TheTwoDecodesDifferOutsideZeroCount := by
  intro c raw legal
  obtain ⟨⟨-, -, distinct⟩, -⟩ := c.legal_iff.mp legal
  refine ⟨?_, count_ne_zero_iff raw⟩
  simp [decBus, decShunt, decodeVolts, abs_mul, distinct]

/-- Settles O9: inside the range nothing is clamped, and the nearest count is at most half a unit away. -/
theorem encodeErrsByAtMostHalfAUnit : Obligations.EncodeErrsByAtMostHalfAUnit := by
  intro lsb phys h low high
  have hl := pos_of_lsbInRange h
  rw [decodeVolts, count_encodeVolts, sat13_of_range (rndDiv_range hl low high), abs_sub_comm]
  exact (nearest_rndDiv hl phys).1

end Sys2Proof.Machine
end

section
/-! PROOFS. The four functions of the codec port (40_codec.md rules R72 to R76): each drives the port with an
output that is right by its rule. -/

namespace Sys2Proof.Machine

open Safety

theorem exec_decbus (ignored raw : Raw) (s : State) : exec (.decbus ignored raw) s =
    .next (driveCodec 0b00#2 (ignored ++ raw) (microvolts (decBus s.cfg raw)) s) := rfl

theorem exec_decshunt (ignored raw : Raw) (s : State) : exec (.decshunt ignored raw) s =
    .next (driveCodec 0b01#2 (ignored ++ raw) (microvolts (decShunt s.cfg raw)) s) := rfl

theorem exec_encbus (phys : Int) (s : State) : exec (.encbus phys) s =
    .next (driveCodec 0b10#2 (BitVec.ofInt 32 phys) (zext32 (encBus s.cfg phys)) s) := rfl

theorem exec_encshunt (phys : Int) (s : State) : exec (.encshunt phys) s =
    .next (driveCodec 0b11#2 (BitVec.ofInt 32 phys) (zext32 (encShunt s.cfg phys)) s) := rfl

theorem drivesCodec_of_exec {i : Instr} {op : BitVec 2} {arg : Word} {right : Config → Word → Prop}
    {out : Config → Word} (driven : ∀ s, exec i s = .next (driveCodec op arg (out s.cfg) s))
    (correct : ∀ c : Config, c.legal = true → right c (out c)) : DrivesCodec i op arg right :=
  fun s legal => ⟨out s.cfg, correct s.cfg legal, driven s⟩

variable {lsb : Nat}

theorem isDecodeOf_microvolts (h : lsbInRange lsb = true) (raw : Raw) :
    IsDecodeOf lsb raw (microvolts (decodeVolts lsb raw)) :=
  microvolts_toInt (decodeVolts_range h raw).1 (decodeVolts_range h raw).2

theorem isEncodeOf_encodeVolts (h : lsbInRange lsb = true) (phys : Int) :
    IsEncodeOf lsb phys (encodeVolts lsb phys) :=
  ⟨rndDiv phys lsb, nearest_rndDiv (pos_of_lsbInRange h) phys, toInt_encodeVolts lsb phys⟩

theorem zext32_eq_append (raw : Raw) : zext32 raw = (0#16 ++ raw : Word) :=
  BitVec.setWidth_eq_append (by decide)

theorem zext32_encodeVolts_correct (h : lsbInRange lsb = true) (phys : Int) :
    ∃ raw : Raw, zext32 (encodeVolts lsb phys) = (0#16 ++ raw : Word) ∧ raw.extractLsb' 0 3 = 0#3 ∧
      IsEncodeOf lsb phys raw :=
  ⟨encodeVolts lsb phys, zext32_eq_append _, encodeVolts_padding lsb phys, isEncodeOf_encodeVolts h phys⟩

theorem busLsbUv_inRange {c : Config} (legal : c.legal = true) : lsbInRange c.busLsbUv = true := by
  obtain ⟨⟨bus, -⟩, -⟩ := c.legal_iff.mp legal
  exact (lsbInRange_iff _).mpr bus

theorem shuntLsbUv_inRange {c : Config} (legal : c.legal = true) : lsbInRange c.shuntLsbUv = true := by
  obtain ⟨⟨-, shunt, -⟩, -⟩ := c.legal_iff.mp legal
  exact (lsbInRange_iff _).mpr shunt

/-- Settles O2: no decode leaves the signed 32-bit range, so the output is read back exactly. -/
theorem decbusIsCountTimesBusScale : Obligations.DecbusIsCountTimesBusScale :=
  fun ignored raw => drivesCodec_of_exec (out := fun c => microvolts (decBus c raw))
    (exec_decbus ignored raw) fun _ legal => isDecodeOf_microvolts (busLsbUv_inRange legal) raw

/-- Settles O3, as O2 with the other scale. -/
theorem decshuntIsCountTimesShuntScale : Obligations.DecshuntIsCountTimesShuntScale :=
  fun ignored raw => drivesCodec_of_exec (out := fun c => microvolts (decShunt c raw))
    (exec_decshunt ignored raw) fun _ legal => isDecodeOf_microvolts (shuntLsbUv_inRange legal) raw

/-- Settles O4: the quotient is rounded to the nearest count, and the clamped count is read back from its
pattern. No bound on the number of microvolts is needed. -/
theorem encbusRoundsToNearestAndSaturates : Obligations.EncbusRoundsToNearestAndSaturates :=
  fun phys _ => drivesCodec_of_exec (out := fun c => zext32 (encBus c phys))
    (exec_encbus phys) fun _ legal => zext32_encodeVolts_correct (busLsbUv_inRange legal) phys

/-- Settles O5, as O4 with the other scale. -/
theorem encshuntRoundsToNearestAndSaturates : Obligations.EncshuntRoundsToNearestAndSaturates :=
  fun phys _ => drivesCodec_of_exec (out := fun c => zext32 (encShunt c phys))
    (exec_encshunt phys) fun _ legal => zext32_encodeVolts_correct (shuntLsbUv_inRange legal) phys

end Sys2Proof.Machine
end

section
/-! PROOFS. The words of a command by their fields (30_encoding.md rules R52 to R54). -/

namespace Sys2Proof

open Safety

/-- R53, R54: the operand of a command with a channel is the channel. -/
theorem channelWords_of_encode {i : Nat → Instr} {opcode : BitVec 8}
    (wf : ∀ ch, (i ch).wellFormed = channelNumeral ch)
    (enc : ∀ ch, encode (i ch) = .cmd (cmdWord opcode (BitVec.ofNat 16 ch))) :
    ChannelWords i opcode := by
  intro w ch
  rw [decode_eq_ok_iff, wf, enc]
  constructor
  · rintro ⟨hch, hw⟩
    cases hw
    exact ⟨cmdWord_opcode _ _, cmdWord_reserved _ _,
      (congrArg BitVec.toNat (cmdWord_operand _ _)).trans (toNat_ofNat_of_channelNumeral hch)⟩
  · rintro ⟨rfl, hres, rfl⟩
    refine ⟨decide_eq_true (field w 0 16).isLt, ?_⟩
    rw [BitVec.ofNat_toNat, BitVec.setWidth_eq, cmdWord_of_fields hres]

/-- R52, R53: from opcode 4 on, tests (2) and (3) leave one word. -/
theorem onlyWord_of_encode {i : Instr} (opcode : BitVec 8) (wf : i.wellFormed = true)
    (enc : encode i = .cmd (cmdWord opcode 0#16)) (plain : 4 ≤ opcode.toNat) :
    OnlyWord i (cmdWord opcode 0#16) := by
  constructor
  · intro w
    rw [decode_eq_ok_iff, enc, PortWord.cmd.injEq, eq_comm (a := w)]
    exact and_iff_right wf
  · intro w hop hne
    rw [cmdWord_opcode] at hop
    subst hop
    by_cases hres : field w 16 8 = 0#8
    · have operand : field w 0 16 ≠ 0#16 := fun hz => hne (hz ▸ cmdWord_of_fields hres).symm
      exact .inr (.inr (.inl ⟨plain, operand⟩))
    · exact .inr (.inl hres)

end Sys2Proof
end

section
/-! PROOFS. The events of any command with everything they leave unchanged (10_state.md rule R16), from its
operand test, its micro-sequence and its data. -/

namespace Sys2Proof.Machine

open Safety

variable {i : Instr} {k : Nat}

/-- A state with its own control state and record written out, as the frame of an event writes them. -/
theorem eq_withSeqTrace {t : State} {q : SeqState} {events : List PortEvent} (hq : t.seq = q)
    (htrace : t.trace = events) : t = { t with seq := q, trace := events } := by
  rw [← hq, ← htrace]

/-- A command without a capture only takes its answer from the port. -/
theorem takeOk_of_ne (h : i ≠ .sample) (byte0 byte1 : Byte) (rest : List Answer) (s : State) :
    takeOk i byte0 byte1 rest s = takeAnswer (.ok byte0 byte1) rest s := by
  rw [takeOk, capturedBuf_of_ne h]
  rfl

theorem starts_of_operandOk (hi : isCommand i = true) (ho : operandOk i = true) :
    Starts i (decide (i = .sample)) := by
  intro s p cs hq hc
  rw [exec_command hi, commandEvent_idle hq, checkOf, if_pos ho, acceptEvent_start hc]
  rfl

theorem turnsAwayChannel_of_not_operandOk (hi : isCommand i = true) (ho : ¬operandOk i = true) :
    TurnsAwayChannel i := by
  intro s p cs hq hc
  refine ⟨deliver (.error .invalidChannel) (openCommand p cs s), ?_,
    eq_withSeqTrace hq.symm (trace_of_reject .invalidChannel p cs s)⟩
  rw [exec_command hi, commandEvent_idle hq, checkOf, if_neg ho, acceptEvent_raise hc,
    raise_eq_deliver]

theorem sends_of_program {x : Config → Transaction} (hi : isCommand i = true)
    (hx : ∀ c, (program c i)[k]? = some (x c)) : Sends i k fun c => requestOf c (x c) := by
  rintro s hq rfl
  rw [exec_command hi, commandEvent_issue hq, issueEvent_sends (hx s.cfg)]

theorem failsAt_of_lt_length (hi : isCommand i = true) (hk : ∀ c, k < (program c i).length) :
    FailsAt i k := by
  rintro s code rest hq rfl ha
  refine ⟨deliver (.error (.busError (tePort s.cfg code))) (takeAnswer (.err code) rest s), ?_,
    eq_withSeqTrace rfl (List.append_assoc ..)⟩
  rw [exec_command hi, commandEvent_wait hq,
    answerEvent_err (List.getElem?_eq_getElem (hk s.cfg)) ha, raise_eq_deliver]

/-- R19: the only step of a command ends it with its data. -/
theorem exec_only_step (hi : isCommand i = true) (hne : i ≠ .sample) {s : State} {byte0 byte1 : Byte}
    {rest : List Answer} (one : (program s.cfg i).length = 1) (hq : s.seq = .wait)
    (hk : s.stepCtr.toNat = 0) (ha : s.answers = .ok byte0 byte1 :: rest) :
    exec i s = .next (deliver (.ok (resultOf s.cfg s.tsLatch [rawOfBytes byte0 byte1] i))
      (takeAnswer (.ok byte0 byte1) rest s)) := by
  rw [exec_command hi, commandEvent_wait hq, answerEvent_ok (List.getElem?_eq_getElem (by omega)) ha,
    answerOk_captured_last _ _ _ (by omega), takeOk_of_ne hne, finishOf_of_ne hne _ _ s.tsLatch]
  rfl

end Sys2Proof.Machine
end

section
/-! PROOFS. The single-register reads (41_register_reads.md rules R90 to R96): each is a command of one read
whose data is a function of the raw value. -/

namespace Sys2Proof.Machine

open Safety

/-- R96: `i` is a command of one read, of the register `reg`, that answers `value` of its sixteen bits. -/
structure SingleRead (i : Instr) (reg : RegName) (value : Config → Raw → Word) : Prop where
  command : isCommand i = true
  operand : operandOk i = true
  ne_sample : i ≠ .sample
  program : ∀ c, program c i = [.read reg]
  result : ∀ c ts raw, resultOf c ts [raw] i = .value (value c raw)

/-! The six reads. -/

/-- R34, R131: the bus-voltage look-up is defined for the valid channels. -/
theorem isSome_busReg (ch : Nat) : (busReg ch).isSome = validChannel ch := by
  match ch with
  | 0 | 1 | 2 | 3 | _ + 4 => rfl

theorem isSome_shuntReg (ch : Nat) : (shuntReg ch).isSome = validChannel ch := by
  match ch with
  | 0 | 1 | 2 | 3 | _ + 4 => rfl

theorem exists_busReg {ch : Nat} (h : validChannel ch = true) : ∃ reg, busReg ch = some reg :=
  Option.isSome_iff_exists.mp ((isSome_busReg ch).trans h)

theorem exists_shuntReg {ch : Nat} (h : validChannel ch = true) : ∃ reg, shuntReg ch = some reg :=
  Option.isSome_iff_exists.mp ((isSome_shuntReg ch).trans h)

variable {i : Instr} {ch : Nat} {reg : RegName} {value : Config → Raw → Word}

theorem singleRead_rdbus (h : busReg ch = some reg) :
    SingleRead (.rdbus ch) reg fun c raw => microvolts (decBus c raw) where
  command := rfl
  operand := (isSome_busReg ch).symm.trans (Option.isSome_iff_exists.mpr ⟨reg, h⟩)
  ne_sample := nofun
  program c := by rw [← busReg_program, h, readProgram]
  result _ _ _ := rfl

theorem singleRead_rdshunt (h : shuntReg ch = some reg) :
    SingleRead (.rdshunt ch) reg fun c raw => microvolts (decShunt c raw) where
  command := rfl
  operand := (isSome_shuntReg ch).symm.trans (Option.isSome_iff_exists.mpr ⟨reg, h⟩)
  ne_sample := nofun
  program c := by rw [← shuntReg_program, h, readProgram]
  result _ _ _ := rfl

theorem singleRead_rdmfr : SingleRead .rdmfr .mfrId fun _ => zext32 :=
  ⟨rfl, rfl, nofun, fun _ => rfl, fun _ _ _ => rfl⟩

theorem singleRead_rddie : SingleRead .rddie .dieId fun _ => zext32 :=
  ⟨rfl, rfl, nofun, fun _ => rfl, fun _ _ _ => rfl⟩

theorem singleRead_rdcfg : SingleRead .rdcfg .config fun _ => zext32 :=
  ⟨rfl, rfl, nofun, fun _ => rfl, fun _ _ _ => rfl⟩

theorem singleRead_rdmask : SingleRead .rdmask .maskEnable fun _ => zext32 :=
  ⟨rfl, rfl, nofun, fun _ => rfl, fun _ _ _ => rfl⟩

/-! The events of a single read. -/

theorem SingleRead.starts (h : SingleRead i reg value) : Starts i false :=
  decide_eq_false h.ne_sample ▸ starts_of_operandOk h.command h.operand

theorem SingleRead.sends (h : SingleRead i reg value) : Sends i 0 fun c => memRead c reg :=
  sends_of_program (x := fun _ => .read reg) h.command fun c => by rw [h.program, List.getElem?_cons_zero]

theorem SingleRead.failsAt (h : SingleRead i reg value) : FailsAt i 0 :=
  failsAt_of_lt_length h.command fun c => by simp [h.program]

theorem SingleRead.endsWithValue (h : SingleRead i reg value) {right : Config → Raw → Word → Prop}
    (correct : ∀ c raw, c.legal = true → right c raw (value c raw)) : EndsWithValue i right := by
  intro s byte0 byte1 rest hl hq hk ha
  have one : (Safety.program s.cfg i).length = 1 := by rw [h.program, List.length_singleton]
  have ends := exec_only_step h.command h.ne_sample one hq hk ha
  rw [h.result] at ends
  exact ⟨_, ends, correct s.cfg _ hl, eq_withSeqTrace rfl (List.append_assoc ..)⟩

/-- R90, R91: the events of a read that decodes its sixteen bits by a scale of the configuration. -/
theorem SingleRead.decodes {lsb : Config → Nat}
    (h : SingleRead i reg fun c raw => microvolts (decodeVolts (lsb c) raw))
    (inRange : ∀ c : Config, c.legal = true → lsbInRange (lsb c) = true) :
    Starts i false ∧ FailsAt i 0 ∧ EndsWithValue i fun c raw v => IsDecodeOf (lsb c) raw v :=
  ⟨h.starts, h.failsAt, h.endsWithValue fun c raw legal => isDecodeOf_microvolts (inRange c legal) raw⟩

/-- R92 to R95: the events of a read that passes its sixteen bits on. -/
theorem SingleRead.passThrough (h : SingleRead i reg fun _ => zext32) :
    Starts i false ∧ (Sends i 0 fun c => memRead c reg) ∧ FailsAt i 0 ∧
      EndsWithValue i fun _ raw v => v = (0#16 ++ raw : Word) :=
  ⟨h.starts, h.sends, h.failsAt, h.endsWithValue fun _ raw _ => zext32_eq_append raw⟩

/-- R96 with R15: the big step of a single read takes one answer. -/
theorem SingleRead.bigStep (h : SingleRead i reg value) {p : Presented} (hd : decodeCmd p.word = .ok i)
    (c : Config) (a : Answer) (rest : List Answer) :
    ∃ r, Safety.bigStep c p (a :: rest) = some ([.accepted p.word (tsPort c p.ts),
      .requested (memRead c reg), .answered (answerPort c a), .responded r], rest) := by
  cases a with
  | err code =>
    refine ⟨.error (.busError (tePort c code)), ?_⟩
    simp [Safety.bigStep, hd, h.operand, h.program, transactions, requestOf, answerPort]
  | ok byte0 byte1 =>
    refine ⟨.ok (.value (value c (rawOfBytes byte0 byte1))), ?_⟩
    simp [Safety.bigStep, hd, h.operand, h.program, transactions, requestOf, answerPort, h.result]

/-- Settles O12: RDBUS is a single read for the channels of the look-up, and the operand test turns every
other channel away. -/
theorem rdbusReadsAndDecodesItsChannel : Obligations.RdbusReadsAndDecodesItsChannel := by
  refine ⟨channelWords_of_encode (fun _ => rfl) (fun _ => rfl), ?_,
    (singleRead_rdbus (ch := 1) rfl).sends, (singleRead_rdbus (ch := 2) rfl).sends,
    (singleRead_rdbus (ch := 3) rfl).sends, ?_⟩
  · intro ch valid
    obtain ⟨reg, hreg⟩ := exists_busReg (decide_eq_true valid)
    exact (singleRead_rdbus hreg).decodes fun _ => busLsbUv_inRange
  · intro ch invalid
    exact turnsAwayChannel_of_not_operandOk rfl fun valid => invalid (validChannel_cases valid)

/-- Settles O13, as O12 with the shunt registers and the other scale. -/
theorem rdshuntReadsAndDecodesItsChannel : Obligations.RdshuntReadsAndDecodesItsChannel := by
  refine ⟨channelWords_of_encode (fun _ => rfl) (fun _ => rfl), ?_,
    (singleRead_rdshunt (ch := 1) rfl).sends, (singleRead_rdshunt (ch := 2) rfl).sends,
    (singleRead_rdshunt (ch := 3) rfl).sends, ?_⟩
  · intro ch valid
    obtain ⟨reg, hreg⟩ := exists_shuntReg (decide_eq_true valid)
    exact (singleRead_rdshunt hreg).decodes fun _ => shuntLsbUv_inRange
  · intro ch invalid
    exact turnsAwayChannel_of_not_operandOk rfl fun valid => invalid (validChannel_cases valid)

/-- Settles O14: four single reads whose value is the zero-extension. -/
theorem passThroughReadsReturnTheRawBits : Obligations.PassThroughReadsReturnTheRawBits := by
  refine ⟨⟨?_, singleRead_rdmfr.passThrough⟩, ⟨?_, singleRead_rddie.passThrough⟩,
    ⟨?_, singleRead_rdcfg.passThrough⟩, ⟨?_, singleRead_rdmask.passThrough⟩⟩
  · exact onlyWord_of_encode 0x05#8 rfl rfl (by decide)
  · exact onlyWord_of_encode 0x06#8 rfl rfl (by decide)
  · exact onlyWord_of_encode 0x07#8 rfl rfl (by decide)
  · exact onlyWord_of_encode 0x08#8 rfl rfl (by decide)

/-- R96: the six commands with a valid operand are single reads. -/
theorem exists_singleRead (ho : operandOk i = true)
    (hi : (∃ ch, i = .rdbus ch ∨ i = .rdshunt ch) ∨ i = .rdmfr ∨ i = .rddie ∨ i = .rdcfg ∨ i = .rdmask) :
    ∃ reg value, SingleRead i reg value := by
  obtain ⟨ch, rfl | rfl⟩ | rfl | rfl | rfl | rfl := hi
  · obtain ⟨reg, hreg⟩ := exists_busReg ho
    exact ⟨reg, _, singleRead_rdbus hreg⟩
  · obtain ⟨reg, hreg⟩ := exists_shuntReg ho
    exact ⟨reg, _, singleRead_rdshunt hreg⟩
  · exact ⟨_, _, singleRead_rdmfr⟩
  · exact ⟨_, _, singleRead_rddie⟩
  · exact ⟨_, _, singleRead_rdcfg⟩
  · exact ⟨_, _, singleRead_rdmask⟩

/-- Settles O21: the machine runs the big step of the command, which has one request. -/
theorem singleReadsMakeOneRequestAndOneResponse :
    Obligations.SingleReadsMakeOneRequestAndOneResponse := by
  intro s p cs i a rest hl hq hs hc hd ho hi ha
  obtain ⟨reg, value, read⟩ := exists_singleRead ho hi
  obtain ⟨r, hbig⟩ := read.bigStep hd s.cfg a rest
  obtain ⟨t, hrun, ended⟩ := run_bigStep hl hs hq hc (ha ▸ hbig)
  exact ⟨t, s.cfg.regAddr reg, r, hrun, ended.seq, ended.respValid, ended.answers, ended.trace⟩

end Sys2Proof.Machine
end

section
/-! PROOFS. `pack` under a legal layout, and under the default layout (42_configuration.md rules R54, R111,
R115). -/

namespace Sys2Proof

/-- R115: a bit that no field of the layout covers is 0. -/
theorem pack_getLsbD_uncovered {l : CfgLayout} (s : Settings) {k : Nat}
    (h : ∀ f ∈ l.spans, k < f.1 ∨ f.1 + f.2 ≤ k) : (pack l s).getLsbD k = false := by
  rw [← l.fields_map_span s] at h
  rw [pack_eq_packFields]
  exact packFields_getLsbD_uncovered fun f hf => h f.span (List.mem_map_of_mem hf)

/-- Settles O22: `unpack` is a left inverse of `pack`. -/
theorem packIsInjectiveUnderALegalLayout : Obligations.PackIsInjectiveUnderALegalLayout := by
  intro l legal
  have back : Function.LeftInverse (unpack l) (pack l) := unpack_pack legal
  exact ⟨fun _ _ same => back.injective same, back, fun s _ => pack_getLsbD_uncovered s⟩

theorem CfgLayout.default_legal : CfgLayout.default.legal = true := by decide

/-- R111: the seven default fields leave no gap below bit 15. -/
theorem CfgLayout.default_covers : ∀ k < 15, ∃ f ∈ CfgLayout.default.spans, f.1 ≤ k ∧ k < f.1 + f.2 := by
  decide

/-- R54, R111: the default layout places each field where the command word has it. -/
theorem value_of_mem_default_fields {w : Word} {f : PlacedField}
    (h : f ∈ CfgLayout.default.fields (settingsOf w)) : f.value = field w f.pos f.width := by
  simp only [CfgLayout.fields, List.mem_cons, List.not_mem_nil, or_false] at h
  obtain rfl | rfl | rfl | rfl | rfl | rfl | rfl := h
  · exact ofBool_getLsbD w 14
  · exact ofBool_getLsbD w 13
  · exact ofBool_getLsbD w 12
  all_goals rfl

/-- A covered bit of the packed word is the bit of the command word. -/
theorem pack_default_settingsOf_getLsbD (w : Word) {k : Nat} (hk : k < 15) :
    (pack CfgLayout.default (settingsOf w)).getLsbD k = w.getLsbD k := by
  obtain ⟨span, mem, low, high⟩ := CfgLayout.default_covers k hk
  rw [← CfgLayout.fields_map_span _ (settingsOf w)] at mem
  obtain ⟨f, hf, rfl⟩ := List.mem_map.mp mem
  simp only [PlacedField.span] at low high
  have same : (pack CfgLayout.default (settingsOf w)).extractLsb' f.pos f.width = field w f.pos f.width :=
    (pack_extract_field CfgLayout.default_legal _ hf).trans (value_of_mem_default_fields hf)
  have bit := congrArg (BitVec.getLsbD · (k - f.pos)) same
  have inside : k - f.pos < f.width := by omega
  simpa [inside, Nat.add_sub_cancel' low] using bit

/-- Settles O23, bit by bit: bits 14:0 are covered and bit 15 is not. -/
theorem defaultLayoutPacksTheOperandAsItStands :
    Obligations.DefaultLayoutPacksTheOperandAsItStands := by
  intro w
  refine BitVec.eq_of_getLsbD_eq fun k hk => ?_
  rw [BitVec.getLsbD_append]
  by_cases covered : k < 15
  · simp [pack_default_settingsOf_getLsbD w covered, covered]
  · obtain rfl : k = 15 := by omega
    rw [pack_getLsbD_uncovered _ (by decide)]
    rfl

end Sys2Proof
end

section
/-! PROOFS. The two writes of the configuration register (42_configuration.md rules R112, R113): each is a
command of one transaction that answers no data. -/

namespace Sys2Proof.Machine

open Safety

/-- R53, R54: a word is CONFIG of a settings record when the record's operand stands under the opcode. -/
theorem configWords : ConfigWords := by
  constructor
  · intro w settings
    rw [decode_eq_ok_iff, encode, PortWord.cmd.injEq]
    constructor
    · rintro ⟨-, rfl⟩
      have operand := cmdWord_operand 0x03#8 (settingsOperand settings)
      have bit15 : (cmdWord 0x03#8 (settingsOperand settings)).getLsbD 15 = false := by
        rw [getLsbD_operand _ (by decide), operand, Laws.settingsOperand_bit15]
      exact ⟨cmdWord_opcode _ _, cmdWord_reserved _ _, bit15, (settingsOf_of_operand operand).symm⟩
    · rintro ⟨hop, hres, bit15, rfl⟩
      refine ⟨rfl, ?_⟩
      calc cmdWord 0x03#8 (settingsOperand (settingsOf w))
          _ = cmdWord (field w 24 8) (field w 0 16) := by rw [hop, settingsOperand_settingsOf bit15]
          _ = w := cmdWord_of_fields hres
  · rintro w hop (hres | bit15)
    · exact .inr (.inl hres)
    · exact .inr (.inr (.inr ⟨hop, bit15⟩))

variable {i : Instr}

/-- R19: a command of one step without data ends with its answer. -/
theorem endsWithNothing_of_only_step (hi : isCommand i = true) (hne : i ≠ .sample)
    (one : ∀ c, (program c i).length = 1) (result : ∀ c ts raws, resultOf c ts raws i = .nothing) :
    EndsWithNothing i := by
  intro s byte0 byte1 rest hq hk ha
  have ends := exec_only_step hi hne (one s.cfg) hq hk ha
  rw [result] at ends
  exact ⟨_, ends, eq_withSeqTrace rfl (List.append_assoc ..)⟩

/-- R112, R113: `i` is a command of one write, of the word `word` to the configuration register, without
data in its response. -/
structure ConfigWrite (i : Instr) (word : Config → Raw) : Prop where
  command : isCommand i = true
  operand : operandOk i = true
  ne_sample : i ≠ .sample
  program : ∀ c, program c i = [.write .config (word c)]
  result : ∀ c ts raws, resultOf c ts raws i = .nothing

theorem configWrite_config (settings : Settings) :
    ConfigWrite (.config settings) fun c => pack c.layout settings :=
  ⟨rfl, rfl, nofun, fun _ => rfl, fun _ _ _ => rfl⟩

theorem configWrite_defcfg : ConfigWrite .defcfg Config.defaultConfig :=
  ⟨rfl, rfl, nofun, fun _ => rfl, fun _ _ _ => rfl⟩

/-- R16, R37: the events of a write of the configuration register. -/
theorem ConfigWrite.events {word : Config → Raw} (h : ConfigWrite i word) :
    Starts i false ∧ (Sends i 0 fun c => memWrite c .config (word c)) ∧ FailsAt i 0 ∧
      EndsWithNothing i := by
  have one (c : Config) : (Safety.program c i).length = 1 := by rw [h.program, List.length_singleton]
  refine ⟨decide_eq_false h.ne_sample ▸ starts_of_operandOk h.command h.operand, ?_, ?_, ?_⟩
  · exact sends_of_program (x := fun c => .write .config (word c)) h.command fun c => by
      rw [h.program, List.getElem?_cons_zero]
  · exact failsAt_of_lt_length h.command fun c => by simp [one]
  · exact endsWithNothing_of_only_step h.command h.ne_sample one h.result

/-- Settles O15: CONFIG writes the packed settings. -/
theorem configWritesThePackedWord : Obligations.ConfigWritesThePackedWord :=
  ⟨configWords, fun settings => (configWrite_config settings).events⟩

/-- Settles O16: DEFCFG writes the constant. -/
theorem defcfgWritesTheDefaultWord : Obligations.DefcfgWritesTheDefaultWord :=
  ⟨onlyWord_of_encode 0x04#8 rfl rfl (by decide), configWrite_defcfg.events⟩

end Sys2Proof.Machine
end

section
/-! PROOFS. The events of SAMPLE with everything they leave unchanged (43_sample.md rules R120, R121): each
step stores its decode in its slot, and the last one hands over the record. -/

namespace Sys2Proof.Machine

open Safety

variable {i : Instr} {s : State} {byte0 byte1 : Byte} {rest : List Answer}

/-! An `Ok` answer of any command (R16). -/

theorem exec_goesOn (hi : isCommand i = true) (hq : s.seq = .wait)
    (more : s.stepCtr.toNat + 1 < (program s.cfg i).length) (ha : s.answers = .ok byte0 byte1 :: rest) :
    exec i s = .next (wentOn i byte0 byte1 rest s) := by
  rw [exec_command hi, commandEvent_wait hq, answerEvent_ok (List.getElem?_eq_getElem (by omega)) ha,
    answerOk_captured_more _ _ _ (by omega)]

theorem exec_ends (hi : isCommand i = true) (hq : s.seq = .wait)
    (last : s.stepCtr.toNat + 1 = (program s.cfg i).length) (ha : s.answers = .ok byte0 byte1 :: rest) :
    exec i s = .next (deliver
      (.ok (finishOf i (rawOfBytes byte0 byte1) (takeOk i byte0 byte1 rest s)))
      (takeOk i byte0 byte1 rest s)) := by
  rw [exec_command hi, commandEvent_wait hq, answerEvent_ok (List.getElem?_eq_getElem (by omega)) ha,
    answerOk_captured_last _ _ _ last]

/-! The buffer. -/

/-- R12: the block has no slot from 6 on. -/
theorem slot_of_six_le (x : Voltages) {j : Nat} (h : 6 ≤ j) : x.slot j = none := by
  obtain ⟨n, rfl⟩ := Nat.exists_eq_add_of_le' h
  rfl

/-- R120: the bus scale at an even step, the shunt scale at an odd one. -/
theorem isDecodeOf_sampleDecode {c : Config} (legal : c.legal = true) (k : Nat) (raw : Raw) :
    IsDecodeOf (if k % 2 = 0 then c.busLsbUv else c.shuntLsbUv) raw (sampleDecode c k raw) := by
  unfold sampleDecode
  split
  · exact isDecodeOf_microvolts (busLsbUv_inRange legal) raw
  · exact isDecodeOf_microvolts (shuntLsbUv_inRange legal) raw

/-- R121: step `k` writes slot `k` and no other. -/
theorem slot_capturedBuf_sample (raw : Raw) (s : State) (hk : s.stepCtr.toNat < 6) (j : Nat) :
    (capturedBuf .sample raw s).slot j = if j = s.stepCtr.toNat
      then some (sampleDecode s.cfg s.stepCtr.toNat raw) else s.sampleBuf.slot j := by
  rw [capturedBuf_sample]
  by_cases hj : j < 6
  · exact slot_setSlot _ _ hj
  · rw [slot_of_six_le _ (by omega), slot_of_six_le _ (by omega), if_neg (by omega)]

/-- R120: the last step writes `x[5]`. -/
theorem shunt3_capturedBuf_sample_last (raw : Raw) (hk : s.stepCtr.toNat = 5) :
    (capturedBuf .sample raw s).shunt3 = sampleDecode s.cfg 5 raw := by
  rw [capturedBuf_sample, hk]
  rfl

theorem capturedBuf_sample_last (raw : Raw) (hk : s.stepCtr.toNat = 5) : capturedBuf .sample raw s =
    { s.sampleBuf with shunt3 := (capturedBuf .sample raw s).shunt3 } := by
  rw [capturedBuf_sample, hk]
  rfl

/-! The events of SAMPLE. -/

/-- R121: `SEQ_REG` gives the register of each step. -/
theorem sample_sends {k : Nat} (reg : RegName) (h : sampleProgram[k]? = some (.read reg)) :
    Sends .sample k fun c => memRead c reg :=
  sends_of_program (x := fun _ => .read reg) rfl fun _ => h

/-- R120: an `Ok` answer is captured, whether or not its step is the last. -/
theorem exec_sample_captures (hq : s.seq = .wait) (hk : s.stepCtr.toNat < 6)
    (ha : s.answers = .ok byte0 byte1 :: rest) :
    ∃ t, exec .sample s = .next t ∧ t.sampleBuf = capturedBuf .sample (rawOfBytes byte0 byte1) s := by
  by_cases more : s.stepCtr.toNat + 1 < 6
  · exact ⟨_, exec_goesOn rfl hq more ha, rfl⟩
  · have last : s.stepCtr.toNat + 1 = 6 := by omega
    exact ⟨_, exec_ends rfl hq last ha, rfl⟩

/-- Settles O17: the six reads of `SEQ_REG`, and the capture of each answer in its slot. -/
theorem sampleStepsReadDecodeAndStoreInOrder : Obligations.SampleStepsReadDecodeAndStoreInOrder := by
  refine ⟨starts_of_operandOk rfl rfl, sample_sends .bus1 rfl, sample_sends .shunt1 rfl,
    sample_sends .bus2 rfl, sample_sends .shunt2 rfl, sample_sends .bus3 rfl,
    sample_sends .shunt3 rfl, ?_⟩
  rintro s byte0 byte1 rest k legal hq rfl hk ha
  obtain ⟨t, hexec, hbuf⟩ := exec_sample_captures hq hk ha
  exact ⟨t, _, hexec, isDecodeOf_sampleDecode legal _ _, hbuf ▸ slot_capturedBuf_sample _ s hk⟩

/-- Settles O18: steps 0 to 4 have a step after them, and every step can fail. -/
theorem sampleGoesOnToTheNextStepOrFails : Obligations.SampleGoesOnToTheNextStepOrFails := by
  refine ⟨onlyWord_of_encode 0x09#8 rfl rfl (by decide),
    fun k hk => failsAt_of_lt_length rfl fun _ => hk, ?_⟩
  rintro s byte0 byte1 rest k hq rfl hk ha
  have succ : s.stepCtr + 1#3 = BitVec.ofNat 3 (s.stepCtr.toNat + 1) := by
    rw [BitVec.ofNat_add, BitVec.ofNat_toNat, BitVec.setWidth_eq]
  exact ⟨_, exec_goesOn rfl hq (Nat.succ_lt_succ hk) ha, succ ▸ rfl⟩

/-- A state with its own buffer and record written out, as the frame of the last step writes them. -/
theorem eq_withBufTrace {t : State} {buf : Voltages} {events : List PortEvent} (hbuf : t.sampleBuf = buf)
    (htrace : t.trace = events) : t = { t with sampleBuf := buf, trace := events } := by
  rw [← hbuf, ← htrace]

/-- Settles O19: the capture of step 5 completes the record, and the command ends with it. -/
theorem sampleHandsOverTheWholeRecord : Obligations.SampleHandsOverTheWholeRecord := by
  intro s byte0 byte1 rest legal hq hk ha
  have last : s.stepCtr.toNat + 1 = 6 := congrArg (· + 1) hk
  refine ⟨_, exec_ends rfl hq last ha, ?_, ?_⟩
  · exact shunt3_capturedBuf_sample_last _ hk ▸
      isDecodeOf_sampleDecode legal 5 (rawOfBytes byte0 byte1)
  · exact eq_withBufTrace (capturedBuf_sample_last _ hk) (List.append_assoc ..)

end Sys2Proof.Machine
end

section
/-! PROOFS. How many requests a SAMPLE sends (43_sample.md rule R122): the machine runs the big step, whose
transactions stop at the first failed answer. -/

namespace Sys2Proof.Machine

open Safety

/-- The answers of good reads, each of two bytes. -/
def okAnswers (good : List (Byte × Byte)) : List Answer := good.map fun g => .ok g.1 g.2

@[simp] theorem okAnswers_nil : okAnswers [] = [] := rfl

@[simp] theorem okAnswers_cons (g : Byte × Byte) (good : List (Byte × Byte)) :
    okAnswers (g :: good) = .ok g.1 g.2 :: okAnswers good := rfl

section Transactions

variable (c : Config) (i : Instr) (ts : Nat)

/-- R122: good answers take the transactions on, with one request each. -/
theorem transactions_okAnswers (good : List (Byte × Byte)) {prog : List Transaction}
    (raws : List Raw) (answers : List Answer) (h : good.length ≤ prog.length) :
    ∃ events raws', requestCount events = good.length ∧
      transactions c i ts prog raws (okAnswers good ++ answers) =
        (transactions c i ts (prog.drop good.length) raws' answers).map
          fun out => (events ++ out.1, out.2) := by
  induction good generalizing prog raws with
  | nil => exact ⟨[], raws, rfl, by simp⟩
  | cons g good ih =>
    cases prog with
    | nil => cases h
    | cons x more =>
      obtain ⟨events, raws', count, later⟩ :=
        ih (raws ++ [rawOfBytes g.1 g.2]) (Nat.le_of_succ_le_succ h)
      refine ⟨[.requested (requestOf c x), .answered (.ok g.1 g.2)] ++ events, raws', ?_, ?_⟩
      · rw [requestCount_append, count, List.length_cons, Nat.add_comm]
        rfl
      · simp [transactions, later, Function.comp_def]

/-- R122: the transactions end with the transport's code at the first failed answer. -/
theorem transactions_failed {good : List (Byte × Byte)} (prog : List Transaction) (raws : List Raw)
    (code : Nat) (rest : List Answer) (h : good.length < prog.length) :
    ∃ events, requestCount events = good.length + 1 ∧
      transactions c i ts prog raws (okAnswers good ++ .err code :: rest) =
        some (events ++ [.responded (.error (.busError (tePort c code)))], rest) := by
  obtain ⟨events, raws', count, eq⟩ :=
    transactions_okAnswers c i ts good raws (.err code :: rest) h.le
  refine ⟨events ++ [.requested (requestOf c prog[good.length]),
    .answered (.err (tePort c code))], ?_, ?_⟩
  · rw [requestCount_append, count]
    rfl
  · rw [eq, List.drop_eq_getElem_cons h]
    simp [transactions]

/-- R122: with a good answer for each transaction all of them are made. -/
theorem transactions_succeeded {good : List (Byte × Byte)} (prog : List Transaction)
    (raws : List Raw) (rest : List Answer) (h : good.length = prog.length) :
    ∃ events d, requestCount events = good.length ∧
      transactions c i ts prog raws (okAnswers good ++ rest) =
        some (events ++ [.responded (.ok d)], rest) := by
  obtain ⟨events, raws', count, eq⟩ := transactions_okAnswers c i ts good raws rest h.le
  refine ⟨events, resultOf c ts raws' i, count, ?_⟩
  rw [eq, h, List.drop_length, transactions, Option.map_some]

end Transactions

variable {s : State} {c : Config} {i : Instr}

/-- R18: the registers show the last response of the record. -/
theorem shows_of_currentResponse {r : Response} (h : ResponseShown s)
    (hr : currentResponse s.trace = some r) : Shows s r := by
  rw [ResponseShown.eq_def, hr] at h
  exact h.2

/-- R15: the big step of a command that starts is its ACCEPT and its transactions. -/
theorem bigStep_of_transactions {p : Presented} {answers left : List Answer} {events : List PortEvent}
    (hd : decodeCmd p.word = .ok i) (ho : operandOk i = true)
    (h : transactions c i (tsPort c p.ts) (program c i) [] answers = some (events, left)) :
    bigStep c p answers = some (.accepted p.word (tsPort c p.ts) :: events, left) := by
  simp [bigStep, hd, ho, h]

/-- R15, R18, R122: a command runs one step for its ACCEPT and two for each request of its transactions, and
the registers then show the response that its transactions ended with. -/
theorem run_responded {p : Presented} {cs : List Presented} {events : List PortEvent} {r : Response}
    {left : List Answer} (hl : s.cfg.legal = true) (hs : s.schedule = []) (hq : s.seq = .idle)
    (hc : s.commands = p :: cs) (hd : decodeCmd p.word = .ok i) (ho : operandOk i = true)
    (h : transactions s.cfg i (tsPort s.cfg p.ts) (program s.cfg i) [] s.answers =
      some (events ++ [.responded r], left)) :
    ∃ t events', Host.Core.run Sys2Proof.core (2 * requestCount events + 1) s = .next t ∧
      requestCount events' = requestCount events ∧ Ended { s with commands := cs } events' left t ∧
      currentResponse t.trace = some r ∧ Shows t r := by
  obtain ⟨t, hrun, ended⟩ := run_bigStep hl hs hq hc (bigStep_of_transactions hd ho h)
  have count : requestCount (.accepted p.word (tsPort s.cfg p.ts) :: (events ++ [.responded r])) =
      requestCount events := requestCount_append events _
  rw [count, Nat.add_comm] at hrun
  have response : currentResponse t.trace = some r := by
    rw [ended.trace, ← List.cons_append, ← List.append_assoc, currentResponse_responded]
  have shown : ResponseShown t := by
    obtain ⟨u, hu, hrest⟩ := run_succ_cases hrun
    exact run_responseShown hrest (step_responseShown_of_accept hu hs hq hc)
  exact ⟨t, _, hrun, count, ended, response, shows_of_currentResponse shown response⟩

/-- Settles O20: the six transactions of SAMPLE stop at the first failed answer, or else all are made. -/
theorem sampleFailsAtTheFirstFailedRead : Obligations.SampleFailsAtTheFirstFailedRead := by
  intro s ts cs good rest hl hq hs hc
  have word : decodeCmd 0x09000000#32 = .ok .sample := by decide
  refine ⟨fun code few ha => ?_, fun six ha => ?_⟩
  · obtain ⟨events, count, hfail⟩ := transactions_failed s.cfg .sample (tsPort s.cfg ts)
      (program s.cfg .sample) [] code rest few
    obtain ⟨t, events', hrun, same, ended, response, hstatus, herr⟩ :=
      run_responded hl hs hq hc word rfl (ha ▸ hfail)
    rw [count] at hrun same
    exact ⟨t, events', hrun, ended.seq, ended.respValid, hstatus, herr, ended.answers, ended.commands,
      ended.trace, same, response⟩
  · obtain ⟨events, d, count, hgood⟩ := transactions_succeeded s.cfg .sample (tsPort s.cfg ts)
      (program s.cfg .sample) [] rest six
    obtain ⟨t, events', hrun, same, ended, -, shown⟩ :=
      run_responded hl hs hq hc word rfl (ha ▸ hgood)
    rw [count, six] at hrun same
    exact ⟨t, events', hrun, ended.seq, ended.respValid, shows_status shown, ended.answers, ended.trace,
      same⟩

end Sys2Proof.Machine
end

section
/-! PROOFS. The errors (60_exceptions.md rules R130, R132, R137): what a raise writes and leaves unchanged,
the word that ACCEPT turns away, and the failed answer. -/

namespace Sys2Proof.Machine

open Safety

/-- Settles O32: a raise is the delivery of an error response. -/
theorem raiseDoesExactlyThis : Obligations.RaiseDoesExactlyThis := by
  intro k s
  refine ⟨deliver (.error k) s, raise_eq_deliver k s, ?_, ?_, eq_withSeqTrace rfl rfl⟩
  · cases k <;> rfl
  · rintro code rfl
    rfl

/-- R130: the ACCEPT of an illegal word only takes it from the port and raises IllegalCommand. -/
theorem step_of_illegalWord {s : State} {p : Presented} {cs : List Presented} (hl : s.cfg.legal = true)
    (hq : s.seq = .idle) (hs : s.schedule = []) (hc : s.commands = p :: cs) (illegal : IllegalWord p.word) :
    step s = .next (deliver (.error .illegalCommand) (openCommand p cs s)) := by
  obtain ⟨e, hd⟩ := illegalWord_iff.mp illegal
  exact step_of_sequencerEvent hl hs (.rejects hq hc (acceptError_illegal hd))

/-- Settles O29: the sequencer was IDLE before the raise, so SEQ too is left as it stood. -/
theorem illegalWordRaisesIllegalCommand : Obligations.IllegalWordRaisesIllegalCommand := by
  intro s p cs hl hq hs hc illegal
  exact ⟨_, step_of_illegalWord hl hq hs hc illegal,
    eq_withSeqTrace hq.symm (trace_of_reject .illegalCommand p cs s)⟩

/-- The number of steps of a command is no matter of the configuration (R90 to R95, R112, R113, R121). -/
theorem program_length_eq (c c' : Config) (i : Instr) : (program c i).length = (program c' i).length := by
  unfold program
  split <;> rfl

/-- Settles O33: every step of a command can fail, and a code of the port's width comes through the port
unchanged. -/
theorem busErrorCarriesTheTransportsCode : Obligations.BusErrorCarriesTheTransportsCode := by
  intro i s code rest hi hq hk ha hcode
  have inRange (c : Config) : s.stepCtr.toNat < (program c i).length := program_length_eq s.cfg c i ▸ hk
  obtain ⟨t, hexec, frame⟩ := failsAt_of_lt_length hi inRange s code rest hq rfl ha
  rw [Nat.mod_eq_of_lt hcode] at frame
  refine ⟨t, hexec, ?_⟩
  rw [frame]
  exact ⟨rfl, rfl, rfl, rfl, rfl, rfl, rfl⟩

end Sys2Proof.Machine
end

section
/-! PROOFS. RESET (70_reset_and_hazards.md rules R160 to R162) and the state after reset (10_state.md
section 10). -/

namespace Sys2Proof.Machine

open Safety

/-- Settles O37: the step of a RESET turn is `resetEvent`, which writes no constant and no port. -/
theorem resetEventGoesToIdle : Obligations.ResetEventGoesToIdle := by
  intro s rest hl hs
  exact ⟨_, step_reset hl hs, resetEvent_seq _, resetEvent_respValid _, resetEvent_pending _,
    resetEvent_cfg _, resetEvent_commands _, resetEvent_schedule _, resetEvent_codecOp _,
    resetEvent_codecIn _, resetEvent_codecOut _, resetEvent_trace _⟩

/-- R162: RESET takes the answer to the outstanding request out of the list of answers (log 10). -/
theorem resetEvent_answers_of_pending {s : State} {r : Request} (h : s.pending = some r) :
    (resetEvent s).answers = s.answers.tail := by
  rw [resetEvent_answers, h, Option.isSome_some, if_pos rfl, List.drop_one]

/-- Settles O38: the RESET event stands last in the record, so no response stands after it. -/
theorem resetDiscardsTheOutstandingAnswer : Obligations.ResetDiscardsTheOutstandingAnswer := by
  intro s r rest hl hp hs
  exact ⟨_, step_reset hl hs, resetEvent_answers_of_pending hp, resetEvent_respValid _,
    currentResponse_reset _⟩

/-- R6, R8: the default constants are a configuration of this hardware. -/
theorem default_legal : Config.default.legal = true := by decide

/-- Settles O39, field by field of the reset state. -/
theorem resetStateIsIdleAndReady : Obligations.ResetStateIsIdleAndReady :=
  ⟨rfl, rfl, rfl, rfl, default_legal⟩

/-- The reset state is IDLE, each of its numbers is 0, and the codec port decodes 0 to 0. -/
theorem inv_reset : Inv State.reset :=
  inv_of_idle default_legal (Nat.two_pow_pos _) (Nat.two_pow_pos _) (Nat.two_pow_pos _) rfl rfl
    (fun hv => by cases hv) (by decide)

/-- Settles O49: after reset the record of events is empty, so no response stands and the protocol is
in IDLE. -/
theorem invariantsHoldAfterReset : Obligations.InvariantsHoldAfterReset :=
  ⟨inv_reset, responseShown_none rfl rfl, rfl⟩

end Sys2Proof.Machine
end
